-- ==== Sys2Proof/Word.lean ====
section
/-! DEFINITION. The plain types of the block: bus words, bytes, bit sequences, digit values (00_scope.md R6 to R9). -/

namespace Sys2Proof

/-- A 32-bit bus word, a register or a buffer entry (R9). A character is the word of its code point (R89). -/
abbrev Word := BitVec 32

/-- One byte lane of a bus word (R63). -/
abbrev Byte := BitVec 8

/-- A bit sequence, first bit first; `true` is 1, a bar, and `false` is 0, a space (R6). -/
abbrev Bits := List Bool

/-- A digit value 0 to 9 (R7). -/
abbrev Digit := Fin 10

/-- A parity choice (41_parity.md R130). -/
inductive ParityChoice where
  | odd
  | even
  deriving DecidableEq, Repr, Inhabited

/-- A width choice (42_width.md R151). -/
inductive WidthChoice where
  | narrow
  | wide
  deriving DecidableEq, Repr, Inhabited

/-- A five-element row: a parity row (R131) or a width row (R150), element 0 first. -/
structure Row (α : Type) where
  e0 : α
  e1 : α
  e2 : α
  e3 : α
  e4 : α
  deriving DecidableEq, Repr, Inhabited

/-- The three error kinds of an encode: a closed set (60_exceptions.md R251 to R255). -/
inductive EncodingError where
  | wrongSize
  | wrongChar
  | wrongChecksum
  deriving DecidableEq, Repr, Inhabited

end Sys2Proof
end

