-- ==== Sys2Proof/Config.lean ====
section
/-! DEFINITION. What an implementation fixes (00_scope.md R5) and the free values (93_implementation_defined.md U1 to U4).
Every constant here that the spec leaves open is opaque, so a claim holds whatever its value. -/

namespace Sys2Proof

/-- The two results R220 allows for an Interleaved 2-of-5 command with no characters. -/
inductive EmptyPolicy where
  | accept
  | wrongSize
  deriving DecidableEq, Repr, Inhabited

/-- By how much MAX_CHARS exceeds its lower bound 13 (R5; DESIGN CHOICE, log entry 1). Every instance has the same capacity
(DESIGN CHOICE, log entry 27). -/
opaque Config.extraChars : Fin 65523

/-- MAX_CHARS, the capacity of CHAR_IN: 13 ≤ MAX_CHARS ≤ 65535 (R5, D2). -/
def Config.maxChars : Nat := Config.extraChars.val + 13

/-- MAX_BITS, the capacity of BIT_OUT: exactly 14 × MAX_CHARS + 15 (R5, D3). -/
def Config.maxBits : Nat := 14 * Config.maxChars + 15

/-- W_OUT = ceil(MAX_BITS / 32), the number of BIT_OUT words (R51). -/
def Config.outWords : Nat := (Config.maxBits + 31) / 32

/-- I2OF5_EMPTY (R5, R220, D5; DESIGN CHOICE, log entry 2), the same for every instance (DESIGN CHOICE, log entry 27). -/
opaque Config.i2of5Empty : EmptyPolicy

/-- LATENCY (R5, R289, D6; DESIGN CHOICE, log entry 3): the number of host turns that pass between the CMD write and the completion,
by draw number, FMT and LEN. Every instance has the same function (DESIGN CHOICE, log entry 27). -/
opaque Config.latency : Nat → BitVec 3 → BitVec 16 → Nat

/-- How many 1 MiB frames of the bus lie free just below the window of instance `k` (R5, R70; DESIGN CHOICE, log entry 4). -/
opaque Config.frameGap : Nat → Nat

/-- The number of the 1 MiB frame that instance `k`'s window takes on the bus. No two instances share one (R70, R264): the model
numbers the instances by rising BASE (DESIGN CHOICE, log entry 4). -/
def Config.frame : Nat → Nat
  | 0 => Config.frameGap 0
  | k + 1 => Config.frame k + 1 + Config.frameGap (k + 1)

/-- BASE of instance `k`: an address aligned to 2^20 (R5, D4). -/
def Config.base (k : Nat) : Nat := Config.frame k * 2 ^ 20

/-- By how much N_INST exceeds 1 (R5). -/
opaque Config.extraInst : Nat

/-- N_INST, the number of instances on the platform: at least 1 (R5, D25). -/
def Config.nInst : Nat := Config.extraInst + 1

/-- FREE VALUE: the word a host read returns where R54 or R286 leaves it unspecified, by draw number (U3, U4; DESIGN CHOICE, log entry 7). -/
opaque Config.freeWord : Nat → BitVec 32

/-- FREE VALUE: the value of a BIT_OUT bit that R62 or R280 leaves unspecified, by draw number and bit index
(U1, U2; DESIGN CHOICE, log entry 6). -/
opaque Config.freeBit : Nat → Nat → Bool

end Sys2Proof
end

