-- ==== Sys2Proof/Syntax.lean ====
section
/-! DEFINITION. The block's commands: one constructor per row of spec/opcode_table.json (30_encoding.md R82, R92). -/

namespace Sys2Proof

/-- A command. Its one operand is LEN, the unsigned 16-bit character count (R83). -/
inductive Instr where
  | code11 (len : BitVec 16)   -- ENC.CODE11, FMT 0 (R192)
  | ean13 (len : BitVec 16)    -- ENC.EAN13, FMT 1 (R170)
  | ean8 (len : BitVec 16)     -- ENC.EAN8, FMT 2 (R173)
  | i2of5 (len : BitVec 16)    -- ENC.I2OF5, FMT 3 (R217)
  | s2of5 (len : BitVec 16)    -- ENC.S2OF5, FMT 4 (R212)
  deriving DecidableEq, Repr, Inhabited

/-- The five symbologies, in the order of their FMT values (R82). -/
inductive Format where
  | code11
  | ean13
  | ean8
  | interleaved2of5
  | standard2of5
  deriving DecidableEq, Repr, Inhabited

/-- The symbology a command selects (R82). -/
def Instr.format : Instr → Format
  | .code11 _ => .code11
  | .ean13 _ => .ean13
  | .ean8 _ => .ean8
  | .i2of5 _ => .interleaved2of5
  | .s2of5 _ => .standard2of5

/-- A command's operand LEN (R83). -/
def Instr.len : Instr → BitVec 16
  | .code11 len => len
  | .ean13 len => len
  | .ean8 len => len
  | .i2of5 len => len
  | .s2of5 len => len

/-- The command that selects a symbology with a given LEN (R82). -/
def Format.command : Format → BitVec 16 → Instr
  | .code11, len => .code11 len
  | .ean13, len => .ean13 len
  | .ean8, len => .ean8 len
  | .interleaved2of5, len => .i2of5 len
  | .standard2of5, len => .s2of5 len

end Sys2Proof
end

