-- ==== Sys2Proof/WellFormed.lean ====
section
/-! DEFINITION. Which commands are legal as syntax: LEN is at most MAX_CHARS (30_encoding.md R85). FMT and RSV are legal by
construction, since Instr holds the five formats and no RSV. -/

namespace Sys2Proof

/-- A command is well-formed for a buffer of `maxChars` characters (R85). -/
def Instr.wfWith (maxChars : Nat) (i : Instr) : Bool := !(decide (maxChars < i.len.toNat))

/-- A command is well-formed on this block. -/
def Instr.wf (i : Instr) : Bool := i.wfWith Config.maxChars

end Sys2Proof
end

