-- ==== Sys2Proof/Decode.lean ====
section
/-! DEFINITION. Command decode and encode (30_encoding.md R80 to R88, R92). The decoder is total on all 2^32 words and names
the reason it rejects one. -/

namespace Sys2Proof

/-- Why a command word is illegal (R86). -/
inductive DecodeError where
  /-- FMT is 5, 6 or 7. -/
  | reservedFormat
  /-- RSV is not 0. -/
  | reservedBits
  /-- LEN exceeds MAX_CHARS. -/
  | lengthTooLong
  deriving DecidableEq, Repr

/-- FMT = CMD[2:0] (R81). -/
def fmtField (v : Word) : BitVec 3 := v.extractLsb' 0 3

/-- RSV = CMD[15:3] (R81). -/
def rsvField (v : Word) : BitVec 13 := v.extractLsb' 3 13

/-- LEN = CMD[31:16] (R81). -/
def lenField (v : Word) : BitVec 16 := v.extractLsb' 16 16

/-- The command word with the given fields (R81). -/
def joinFields (len : BitVec 16) (rsv : BitVec 13) (fmt : BitVec 3) : Word := len ++ rsv ++ fmt

/-- The format of a FMT value (R82); 5, 6 and 7 name none. -/
def formatOf (fmt : BitVec 3) : Option Format :=
  match fmt.toNat with
  | 0 => some .code11
  | 1 => some .ean13
  | 2 => some .ean8
  | 3 => some .interleaved2of5
  | 4 => some .standard2of5
  | _ => none

/-- The FMT value of a format (R82). -/
def fmtOf : Format → BitVec 3
  | .code11 => 0
  | .ean13 => 1
  | .ean8 => 2
  | .interleaved2of5 => 3
  | .standard2of5 => 4

/-- `decode(v)` of R88 for a buffer of `maxChars` characters. -/
def decodeWith (maxChars : Nat) (v : Word) : Except DecodeError Instr :=
  match formatOf (fmtField v) with
  | none => .error .reservedFormat
  | some f =>
    if rsvField v ≠ 0 then .error .reservedBits
    else if maxChars < (lenField v).toNat then .error .lengthTooLong
    else .ok (f.command (lenField v))

/-- `decode(v)` of R88 on this block. -/
def decode (v : Word) : Except DecodeError Instr := decodeWith Config.maxChars v

/-- A command word is legal (R85). -/
def legal (v : Word) : Bool :=
  match decode v with
  | .ok _ => true
  | .error _ => false

/-- The word of a command: (LEN << 16) | FMT with RSV = 0 (R81, R94). -/
def encode (i : Instr) : Word := joinFields i.len 0 (fmtOf i.format)

/-- A word from its four byte lanes, lane 0 the least significant (R63). -/
def wordOfBytes (b0 b1 b2 b3 : Byte) : Word := b3 ++ b2 ++ b1 ++ b0

/-- Byte lane `k` of a word: bits [8k+7:8k] (R63). -/
def byteOfWord (v : Word) (k : Nat) : Byte := v.extractLsb' (8 * k) 8

/-- Decode of a command given as its byte lanes, lowest first. A command is exactly four bytes (R80). -/
def decodeBytes : List Byte → Option Instr
  | [b0, b1, b2, b3] => (decode (wordOfBytes b0 b1 b2 b3)).toOption
  | _ => none

/-- The opcode table's view of the decoder: the command whose low `nbits` bits are `w`, the bits above them 0. -/
def decodeTableWord (nbits w : Nat) : Option Instr :=
  let v : Word := BitVec.ofNat 32 (w % 2 ^ nbits)
  decodeBytes [byteOfWord v 0, byteOfWord v 1, byteOfWord v 2, byteOfWord v 3]

end Sys2Proof
end

