-- ==== Sys2Proof/Machine/State.lean ====
section
/-! DEFINITION. The state of one block instance with the host that drives it, and the reasons a step can stop
(10_state.md; 20_memory.md; 70_reset_and_hazards.md R280). -/

namespace Sys2Proof.Machine

/-- The command sequencer (R33). -/
inductive Seq where
  | idle
  | run
  | done
  deriving DecidableEq, Repr, Inhabited

/-- The fields of STATUS (R26). STATUS[31:5] is hardwired to 0 and is made where STATUS is read (Status.toWord). -/
structure Status where
  busy : Bool
  done : Bool
  code : BitVec 3
  deriving DecidableEq, Repr, Inhabited

/-- How a command ended (R251): success, one of the three encoding errors, or an illegal command word. -/
inductive Completion where
  | ok
  | err (kind : EncodingError)
  | illegal
  deriving DecidableEq, Repr, Inhabited

/-- One statement of the host, in the order its accesses reach the port (R66, R93, R96; DESIGN CHOICE, log entry 5). Offsets are bytes from
BASE; `width` is the access width in bytes. -/
inductive HostOp where
  /-- MemRead(off, width) (R52). -/
  | read (off width : Nat)
  /-- MemWrite(off, width, v) (R52). -/
  | write (off width : Nat) (v : Word)
  /-- POLL: RD STATUS until STATUS.DONE = 1 (R93). -/
  | poll
  /-- The last line of ENCODE: RDO 0 .. ceil(OUT_LEN/32)-1, only when CODE = 0 (R96). -/
  | readOut
  /-- A platform reset that reaches the block (R280). -/
  | reset
  deriving DecidableEq, Repr, Inhabited

/-- Buffer contents as (window offset, byte) pairs, offsets strictly rising; what is not listed reads as
Memory.unlisted says. -/
abbrev Memory := List Host.Cell

/-- The whole state. Spec state first, then the model's own fields. -/
structure State where
  /-- CMD (R23 to R25). -/
  cmd : Word
  /-- STATUS (R26). -/
  status : Status
  /-- OUT_LEN (R29). -/
  outLen : Word
  /-- SEQ (R33). -/
  seq : Seq
  /-- FMT_L (R34). -/
  fmtL : BitVec 3
  /-- RSV_L (R34). -/
  rsvL : BitVec 13
  /-- LEN_L (R34). -/
  lenL : BitVec 16
  /-- ACC (R35). -/
  acc : BitVec 4
  /-- CHK (R35). -/
  chk : BitVec 4
  /-- PAR (R36). -/
  par : Row ParityChoice
  /-- WPTR (R37). -/
  wptr : Nat
  /-- The digit staging (R38). -/
  staging : List Digit
  /-- CHAR_IN: the bytes of the entries written since reset, at their window offsets (R54). -/
  mem : Memory
  /-- BIT_OUT: the bits an Append has written, index 0 first; every bit beyond them is unspecified (R58, R62; DESIGN CHOICE, log entry 6). -/
  bitOut : Bits
  /-- MODEL'S OWN: the host's statements not yet taken, oldest first (R66; DESIGN CHOICE, log entry 5). -/
  host : List HostOp
  /-- MODEL'S OWN: the words the port has returned to the host, oldest first (DESIGN CHOICE, log entry 5). -/
  answers : List Word
  /-- MODEL'S OWN: host turns still to pass before the running command completes (R289; DESIGN CHOICE, log entry 3). -/
  delay : Nat
  /-- MODEL'S OWN: the draw that gives BIT_OUT's unspecified bits (R62; DESIGN CHOICE, log entry 6). -/
  outDraw : Nat
  /-- MODEL'S OWN: the next draw number not used yet (DESIGN CHOICE, log entries 6 and 7). -/
  draws : Nat
  deriving DecidableEq, Repr

/-- Host-program faults. The spec has the model record the first three (R267); the last is the model's own. They are not result
codes. -/
inductive Fault where
  /-- Raised by a host access that R53 answers with a bus error: a width other than 32 bits, a misaligned or reserved offset, a
  write to BIT_OUT. SAFE: the hardware changes no state and goes on; the model stops. -/
  | busError
  /-- Raised by a command that reads CHAR_IN[i], not written since reset (R55). SAFE: the hardware reads an unspecified
  word and goes on; the model stops. -/
  | unwrittenInput (i : Nat)
  /-- Raised by a host write to CHAR_IN[i], i < LEN_L, while SEQ = RUN (R285). SAFE: the hardware's result is
  unspecified; the model stops. -/
  | inputRace
  /-- Raised by a host statement at an offset of 2^20 or more: not the block's window but the platform's, whose behaviour the spec does
  not give (R51; DESIGN CHOICE, log entry 26). SAFE: nothing reaches the block and the host goes on; the model stops. -/
  | outsideWindow
  deriving DecidableEq, Repr

/-- Reasons to give an instruction no meaning. Every instruction of this hardware has one. -/
inductive Refusal where
  /-- An instruction without a meaning. Raised by no arm. SAFE: the model stops. -/
  | notModelled (mnemonic : String)
  deriving DecidableEq, Repr

/-- The state right after reset (R280). The registers R280 leaves unspecified hold the values of log entry 8 (DESIGN CHOICE) and the model's own
fields those of log entry 9 (DESIGN CHOICE). -/
def State.reset : State where
  cmd := 0
  status := ⟨false, false, 0⟩
  outLen := 0
  seq := .idle
  fmtL := 0
  rsvL := 0
  lenL := 0
  acc := 0
  chk := 0
  par := ⟨.odd, .odd, .odd, .odd, .odd⟩
  wptr := 0
  staging := []
  mem := []
  bitOut := []
  host := []
  answers := []
  delay := 0
  outDraw := 0
  draws := 1

end Sys2Proof.Machine
end

