-- ==== Sys2Proof/Machine/Flags.lean ====
section
/-! DEFINITION. The status computations (10_state.md R24, R26, R27; 60_exceptions.md R251): the block's only flags are
STATUS.BUSY, STATUS.DONE and STATUS.CODE (R31). -/

namespace Sys2Proof.Machine

/-- `code(kind)` of an encoding error (R251). -/
def errorCode : EncodingError → BitVec 3
  | .wrongSize => 1
  | .wrongChar => 2
  | .wrongChecksum => 3

/-- STATUS.CODE of a completion (R251). -/
def completionCode : Completion → BitVec 3
  | .ok => 0
  | .err kind => errorCode kind
  | .illegal => 4

/-- STATUS as the host reads it: CODE in [4:2], DONE in [1], BUSY in [0], the rest hardwired to 0 (R26). -/
def Status.toWord (st : Status) : Word := 0#27 ++ st.code ++ BitVec.ofBool st.done ++ BitVec.ofBool st.busy

/-- STATUS when a command starts (R24). -/
def statusStarted : Status := ⟨true, false, 0⟩

/-- STATUS at a completion (R27). -/
def statusCompleted (c : Completion) : Status := ⟨false, true, completionCode c⟩

end Sys2Proof.Machine
end

