-- ==== Sys2Proof/Machine/Tables.lean ====
section
/-! DEFINITION. The constant tables, modelled as ROM contents (10_state.md R39): parity rows, L, G, R (41_parity.md), width rows
(42_width.md), the Code11 table (44_code11.md) and the fixed patterns. Entries the spec marks GK rest on log entry 17 (PRESUMED). -/

namespace Sys2Proof.Machine

/-- The `n`-bit sequence written as the binary numeral `v`, leftmost digit first (R6). -/
def pattern (n v : Nat) : Bits := (List.range n).map fun k => v.testBit (n - 1 - k)

/-- Element `pos` (0 to 4) of a row. -/
def rowGet {α : Type} (r : Row α) (pos : Nat) : α :=
  match pos with
  | 0 => r.e0
  | 1 => r.e1
  | 2 => r.e2
  | 3 => r.e3
  | _ => r.e4

/-- The elements of a row, element 0 first. -/
def rowList {α : Type} (r : Row α) : List α := [r.e0, r.e1, r.e2, r.e3, r.e4]

/-- Parity(d), the row [p2, p3, p4, p5, p6] of the EAN13 leading digit (R131, R132). -/
def parityRow (d : Digit) : Row ParityChoice :=
  match d with
  | 0 => ⟨.odd, .odd, .odd, .odd, .odd⟩
  | 1 => ⟨.odd, .even, .odd, .even, .even⟩
  | 2 => ⟨.odd, .even, .even, .odd, .even⟩
  | 3 => ⟨.odd, .even, .even, .even, .odd⟩
  | 4 => ⟨.even, .odd, .odd, .even, .even⟩
  | 5 => ⟨.even, .even, .odd, .odd, .even⟩
  | 6 => ⟨.even, .even, .even, .odd, .odd⟩
  | 7 => ⟨.even, .odd, .even, .odd, .even⟩
  | 8 => ⟨.even, .odd, .even, .even, .odd⟩
  | 9 => ⟨.even, .even, .odd, .even, .odd⟩

/-- L(d), the left-hand odd code (R133). -/
def codeL (d : Digit) : Bits :=
  match d with
  | 0 => pattern 7 0b0001101
  | 1 => pattern 7 0b0011001
  | 2 => pattern 7 0b0010011
  | 3 => pattern 7 0b0111101
  | 4 => pattern 7 0b0100011
  | 5 => pattern 7 0b0110001
  | 6 => pattern 7 0b0101111
  | 7 => pattern 7 0b0111011
  | 8 => pattern 7 0b0110111
  | 9 => pattern 7 0b0001011

/-- G(d), the left-hand even code (R134). -/
def codeG (d : Digit) : Bits :=
  match d with
  | 0 => pattern 7 0b0100111
  | 1 => pattern 7 0b0110011
  | 2 => pattern 7 0b0011011
  | 3 => pattern 7 0b0100001
  | 4 => pattern 7 0b0011101
  | 5 => pattern 7 0b0111001
  | 6 => pattern 7 0b0000101
  | 7 => pattern 7 0b0010001
  | 8 => pattern 7 0b0001001
  | 9 => pattern 7 0b0010111

/-- R(d), the right-hand code (R135, R137). -/
def codeR (d : Digit) : Bits :=
  match d with
  | 0 => pattern 7 0b1110010
  | 1 => pattern 7 0b1100110
  | 2 => pattern 7 0b1101100
  | 3 => pattern 7 0b1000010
  | 4 => pattern 7 0b1011100
  | 5 => pattern 7 0b1001110
  | 6 => pattern 7 0b1010000
  | 7 => pattern 7 0b1000100
  | 8 => pattern 7 0b1001000
  | 9 => pattern 7 0b1110100

/-- LeftHand(d, pos) under the parity row `par` (R136): Odd selects L, Even selects G. -/
def leftHand (par : Row ParityChoice) (d : Digit) (pos : Nat) : Bits :=
  match rowGet par pos with
  | .odd => codeL d
  | .even => codeG d

/-- Width(d), the 2-of-5 width row (R150), the same for both formats (R153). -/
def widthRow (d : Digit) : Row WidthChoice :=
  match d with
  | 0 => ⟨.narrow, .narrow, .wide, .wide, .narrow⟩
  | 1 => ⟨.wide, .narrow, .narrow, .narrow, .wide⟩
  | 2 => ⟨.narrow, .wide, .narrow, .narrow, .wide⟩
  | 3 => ⟨.wide, .wide, .narrow, .narrow, .narrow⟩
  | 4 => ⟨.narrow, .narrow, .wide, .narrow, .wide⟩
  | 5 => ⟨.wide, .narrow, .wide, .narrow, .narrow⟩
  | 6 => ⟨.narrow, .wide, .wide, .narrow, .narrow⟩
  | 7 => ⟨.narrow, .narrow, .narrow, .wide, .wide⟩
  | 8 => ⟨.wide, .narrow, .narrow, .wide, .narrow⟩
  | 9 => ⟨.narrow, .wide, .narrow, .wide, .narrow⟩

/-- C11(c) for a code point; none where the 11-entry table has no entry (R190). -/
def code11Table (cp : Nat) : Option Bits :=
  match cp with
  | 0x30 => some (pattern 6 0b101011)
  | 0x31 => some (pattern 7 0b1101011)
  | 0x32 => some (pattern 7 0b1001011)
  | 0x33 => some (pattern 7 0b1100101)
  | 0x34 => some (pattern 7 0b1011011)
  | 0x35 => some (pattern 7 0b1101101)
  | 0x36 => some (pattern 7 0b1001101)
  | 0x37 => some (pattern 7 0b1010011)
  | 0x38 => some (pattern 7 0b1101001)
  | 0x39 => some (pattern 6 0b110101)
  | 0x2D => some (pattern 6 0b101101)
  | _ => none

/-- The EAN start and end guard "101" (R170, R173). -/
def eanGuard : Bits := pattern 3 0b101

/-- The EAN centre guard "01010" (R170, R173). -/
def eanCentre : Bits := pattern 5 0b01010

/-- C11_START (R191). -/
def c11Start : Bits := pattern 7 0b1011001

/-- C11_SEP (R191). -/
def c11Sep : Bits := pattern 1 0b0

/-- C11_STOP (R191). -/
def c11Stop : Bits := pattern 7 0b1011001

/-- S25_START (R210). -/
def s25Start : Bits := pattern 8 0b11011010

/-- S25_STOP (R210). -/
def s25Stop : Bits := pattern 7 0b1101011

/-- I25_START (R214). -/
def i25Start : Bits := pattern 4 0b1010

/-- I25_STOP (R214). -/
def i25Stop : Bits := pattern 4 0b1101

end Sys2Proof.Machine
end

