-- ==== Sys2Proof/Machine/Ops.lean ====
section
/-! DEFINITION. The named operations over memory and registers: buffer reads and writes, the concatenator, the start of a command,
its completion (the block's trap mechanism, 60_exceptions.md R257) and reset. -/

namespace Sys2Proof.Machine

/-! ## Buffer memory (20_memory.md) -/

/-- What an offset that is not listed reads as: no value (R54; DESIGN CHOICE, log entry 10). -/
def Memory.unlisted (_ : Nat) : Option Byte := none

/-- The byte held at window offset `a`. -/
def Memory.readByte : Memory → Nat → Option Byte
  | [], a => Memory.unlisted a
  | (b, v) :: rest, a => if a = b then some v else Memory.readByte rest a

/-- Store a byte, keeping the offsets strictly rising. -/
def Memory.writeByte : Memory → Nat → Byte → Memory
  | [], a, v => [(a, v)]
  | (b, w) :: rest, a, v =>
    if a < b then (a, v) :: (b, w) :: rest
    else if a = b then (a, v) :: rest
    else (b, w) :: Memory.writeByte rest a v

/-- The canonical form: offsets strictly rise, so none is listed twice. -/
def Memory.wf : Memory → Bool
  | [] => true
  | [_] => true
  | x :: y :: rest => decide (x.1 < y.1) && Memory.wf (y :: rest)

/-- The word at offset `a`, little-endian (R63); none unless all four bytes are held. -/
def Memory.readWord (m : Memory) (a : Nat) : Option Word :=
  match m.readByte a, m.readByte (a + 1), m.readByte (a + 2), m.readByte (a + 3) with
  | some b0, some b1, some b2, some b3 => some (wordOfBytes b0 b1 b2 b3)
  | _, _, _, _ => none

/-- Store a word at offset `a`, little-endian (R63). -/
def Memory.writeWord (m : Memory) (a : Nat) (v : Word) : Memory :=
  (((m.writeByte a (byteOfWord v 0)).writeByte (a + 1) (byteOfWord v 1)).writeByte (a + 2) (byteOfWord v 2)).writeByte
    (a + 3) (byteOfWord v 3)

/-- The window offset of CHAR_IN[i] (R51). -/
def charInOffset (i : Nat) : Nat := 0x40000 + 4 * i

/-- CHAR_IN[i]; none where the host has not written it since reset (R54). -/
def Memory.charIn (m : Memory) (i : Nat) : Option Word := m.readWord (charInOffset i)

/-- CHAR_IN[i] <- v (R54). -/
def Memory.setCharIn (m : Memory) (i : Nat) (v : Word) : Memory := m.writeWord (charInOffset i) v

/-! ## BIT_OUT and the concatenator (20_memory.md R58 to R62) -/

/-- BIT_OUT bit `j`: the bit an Append wrote, or an unspecified one (R59, R62; DESIGN CHOICE, log entry 6). -/
def State.outBit (s : State) (j : Nat) : Bool :=
  match s.bitOut[j]? with
  | some b => b
  | none => Config.freeBit s.outDraw j

/-- The number whose bit `k` is `f k`, for `k` below `n`. -/
def packNat (f : Nat → Bool) : Nat → Nat
  | 0 => 0
  | n + 1 => packNat f n + (if f n then 2 ^ n else 0)

/-- BIT_OUT word `w`: output bits 32w to 32w+31, LSB-first (R58, R59). -/
def State.outWord (s : State) (w : Nat) : Word := BitVec.ofNat 32 (packNat (fun k => s.outBit (32 * w + k)) 32)

/-- Append(p): BIT_OUT bit (WPTR + k) <- p[k], WPTR <- WPTR + |p| (R60). -/
def State.append (s : State) (p : Bits) : State :=
  { s with bitOut := s.bitOut.take s.wptr ++ p, wptr := s.wptr + p.length }

/-- Generation starts: WPTR <- 0 (R235). No bit of this command is written yet, and the bits it does not go on to write take
new unspecified values (R62; DESIGN CHOICE, log entry 6). -/
def State.startGeneration (s : State) : State :=
  { s with wptr := 0, bitOut := [], outDraw := s.draws, draws := s.draws + 1 }

/-- The Append calls of a generation phase, in order. -/
def State.appendAll (s : State) : List Bits → State
  | [] => s
  | p :: ps => (s.append p).appendAll ps

/-! ## Working registers (10_state.md R35 to R38) -/

/-- The digit staging <- ds (R38). -/
def State.stage (s : State) (ds : List Digit) : State := { s with staging := ds }

/-- PAR <- row (R36). -/
def State.loadParity (s : State) (row : Row ParityChoice) : State := { s with par := row }

/-- Staged digit `j`. -/
def State.digit (s : State) (j : Nat) : Digit := s.staging.getD j 0

/-! ## Starting and completing a command (10_state.md R24, R27) -/

/-- The latched command as one word (R34, R234). -/
def State.latched (s : State) : Word := joinFields s.lenL s.rsvL s.fmtL

/-- The register updates of a CMD write that starts a command (R24), the command to complete after `delay` host turns. BIT_OUT
is not cleared. -/
def State.latch (s : State) (v : Word) (delay : Nat) : State :=
  { s with cmd := v, fmtL := fmtField v, lenL := lenField v, rsvL := rsvField v, status := statusStarted, outLen := 0,
           seq := .run, delay := delay }

/-- The host turns before the command word `v` completes: LATENCY, by draw `k` (R289; DESIGN CHOICE, log entry 3); none for an illegal word,
which completes at once (R86; DEDUCED, log entry 13). -/
def commandDelay (k : Nat) (v : Word) : Nat := if legal v then Config.latency k (fmtField v) (lenField v) else 0

/-- A CMD write while SEQ is not RUN: the command starts (R24). -/
def State.startCommand (s : State) (v : Word) : State :=
  { s.latch v (commandDelay s.draws v) with draws := s.draws + 1 }

/-- OUT_LEN at a completion: the WPTR of a success, 0 otherwise (R27, R60). -/
def completionLength (c : Completion) (wptr : Nat) : Word :=
  match c with
  | .ok => BitVec.ofNat 32 wptr
  | .err _ => 0
  | .illegal => 0

/-- The completion step (R27), also the entry of the block's one event like a trap (R250, R257): STATUS, OUT_LEN and SEQ change
and nothing else, no state is saved and there is no vector. Nothing is returned from: the next CMD write clears it
(R258, State.startCommand). -/
def State.complete (s : State) (c : Completion) : State :=
  { s with status := statusCompleted c, outLen := completionLength c s.wptr, seq := .done }

/-- `raise kind`: the command ends with that error (R250). -/
def State.raise (s : State) (kind : EncodingError) : State := s.complete (.err kind)

/-- The generation phase with the given Append calls, then the completion with OK (R235, R27). -/
def State.generate (s : State) (ps : List Bits) : State := (s.startGeneration.appendAll ps).complete .ok

/-! ## Reset (70_reset_and_hazards.md R280, R281) -/

/-- A platform reset reaches the block: every piece of spec state takes its value of R280, a running command is abandoned (R281) and
BIT_OUT's bits take new unspecified values. The host and the draw count are not the block's and stay. -/
def State.resetBlock (s : State) : State :=
  { State.reset with host := s.host, answers := s.answers, outDraw := s.draws, draws := s.draws + 1 }

end Sys2Proof.Machine
end

