-- ==== Sys2Proof/Machine/Operands.lean ====
section
/-! DEFINITION. A command's operands: its character sequence (30_encoding.md R83; 20_memory.md R55), and characters and digits
(00_scope.md R7). -/

namespace Sys2Proof.Machine

/-- isDigit(c): c is one of '0' to '9', code points 0x30 to 0x39 (R7). -/
def isDigit (c : Word) : Bool := decide (0x30 ≤ c.toNat) && decide (c.toNat ≤ 0x39)

/-- dv(c) = c - 0x30, the value of a digit character (R7). -/
def dv (c : Word) : Digit := Fin.ofNat 10 (c.toNat - 0x30)

/-- The character of a digit value. -/
def digitChar (d : Digit) : Word := BitVec.ofNat 32 (0x30 + d.val)

/-- [CharIn(i), ..., CharIn(i+n-1)], or the index of the first entry not written since reset (R55). -/
def readChars (m : Memory) : Nat → Nat → Except Nat (List Word)
  | _, 0 => .ok []
  | i, n + 1 =>
    match m.charIn i with
    | none => .error i
    | some c =>
      match readChars m (i + 1) n with
      | .error k => .error k
      | .ok cs => .ok (c :: cs)

/-- The operand fetch every command shares: read CHAR_IN[0..LEN-1] (R83, R234) and run `body` on the characters, or stop with
UnwrittenInput (R55). -/
def withChars (len : BitVec 16) (s : State) (body : List Word → State) : Host.Outcome State Fault Refusal :=
  match readChars s.mem 0 len.toNat with
  | .error i => .fault (.unwrittenInput i)
  | .ok cs => .next (body cs)

end Sys2Proof.Machine
end

