-- ==== Sys2Proof/Machine/Code11.lean ====
section
/-! DEFINITION. The Code11 encoder (44_code11.md). -/

namespace Sys2Proof.Machine

/-- C11(c), none where inC11(c) does not hold (R190). -/
def c11 (c : Word) : Option Bits := code11Table c.toNat

/-- The Append calls for one character: its pattern and a separator, or none where the character is skipped (R192, R194). -/
def code11Char (c : Word) : List Bits :=
  match c11 c with
  | some p => [p, c11Sep]
  | none => []

/-- The Append calls of EncCode11 (R192). -/
def code11Patterns (cs : List Word) : List Bits := [c11Start, c11Sep] ++ cs.flatMap code11Char ++ [c11Stop]

/-- ENC.CODE11 (R192): no validation step can fail. -/
def execCode11 (len : BitVec 16) (s : State) : Host.Outcome State Fault Refusal :=
  withChars len s fun cs => s.generate (code11Patterns cs)

end Sys2Proof.Machine
end

