-- ==== Sys2Proof/Machine/Checksum.lean ====
section
/-! DEFINITION. The checksum unit (40_checksum.md): the check digit function of R110 and the accumulator datapath of R112
and R113. -/

namespace Sys2Proof.Machine

/-- The weight of backward index `k`: 3 when it is even, 1 when it is odd (R111). -/
def weight (k : Nat) : Nat := if k % 2 = 0 then 3 else 1

/-- The weighted sum of digits listed last digit first, the head at backward index `k` (R110). -/
def weightedSum : Nat → List Digit → Nat
  | _, [] => 0
  | k, d :: ds => weight k * d.val + weightedSum (k + 1) ds

/-- Checksum(ds) (R110). -/
def checksum (ds : List Digit) : Digit :=
  let r := 10 - weightedSum 0 ds.reverse % 10
  if r = 10 then 0 else Fin.ofNat 10 r

/-- One step of the modulo-10 adder: ACC <- (ACC + a) mod 10, a the digit times its weight (R112). -/
def accStep (acc : BitVec 4) (k : Nat) (d : Digit) : BitVec 4 := BitVec.ofNat 4 ((acc.toNat + weight k * d.val) % 10)

/-- The accumulator run over digits listed last digit first, the head at backward index `k` (R112). -/
def accRun : Nat → List Digit → BitVec 4 → BitVec 4
  | _, [], acc => acc
  | k, d :: ds, acc => accRun (k + 1) ds (accStep acc k d)

/-- CHK <- (10 - ACC) mod 10 (R113). -/
def checkOf (acc : BitVec 4) : BitVec 4 := BitVec.ofNat 4 ((10 - acc.toNat) % 10)

/-- The unit runs over `ds`: ACC starts at 0 (R112), CHK takes the check digit (R113). -/
def State.runChecksum (s : State) (ds : List Digit) : State :=
  { s with acc := accRun 0 ds.reverse 0, chk := checkOf (accRun 0 ds.reverse 0) }

/-- The digit value CHK holds. -/
def State.checkDigit (s : State) : Digit := Fin.ofNat 10 s.chk.toNat

end Sys2Proof.Machine
end

