-- ==== Sys2Proof/Machine/Ean.lean ====
section
/-! DEFINITION. The EAN13 and EAN8 encoders (43_ean.md). -/

namespace Sys2Proof.Machine

/-- The integers a to b, both included (R8). -/
def span (a b : Nat) : List Nat := List.range' a (b + 1 - a)

/-- The Append calls of EncEAN13 for digits d[0..12] under the parity row `par` (R170, R171). -/
def ean13Patterns (par : Row ParityChoice) (d : Nat → Digit) : List Bits :=
  [eanGuard, codeL (d 1)] ++ (span 2 6).map (fun j => leftHand par (d j) (j - 2)) ++ [eanCentre] ++
    (span 7 12).map (fun j => codeR (d j)) ++ [eanGuard]

/-- The Append calls of EncEAN8 for digits d[0..7] (R173, R174). -/
def ean8Patterns (d : Nat → Digit) : List Bits :=
  [eanGuard] ++ (span 0 3).map (fun j => codeL (d j)) ++ [eanCentre] ++ (span 4 7).map (fun j => codeR (d j)) ++ [eanGuard]

/-- What both EAN encoders do: arity check (R232), character check, checksum over the `m` payload digits (R115), verify (R120) or
append the check digit, then `gen`. -/
def State.runEan (s : State) (m : Nat) (cs : List Word) (gen : State → State) : State :=
  if cs.length ≠ m ∧ cs.length ≠ m + 1 then s.raise .wrongSize
  else if cs.all isDigit = false then s.raise .wrongChar
  else
    let t := (s.stage (cs.map dv)).runChecksum ((cs.map dv).take m)
    if cs.length = m + 1 then
      if t.digit m ≠ t.checkDigit then t.raise .wrongChecksum else gen t
    else gen (t.stage (t.staging ++ [t.checkDigit]))

/-- EAN13's last validation step, PAR <- Parity(d[0]), and its generation phase (R170). -/
def State.genEan13 (s : State) : State :=
  let t := s.loadParity (parityRow (s.digit 0))
  t.generate (ean13Patterns t.par t.digit)

/-- EAN8's generation phase (R173). -/
def State.genEan8 (s : State) : State := s.generate (ean8Patterns s.digit)

/-- ENC.EAN13 (R170). -/
def execEan13 (len : BitVec 16) (s : State) : Host.Outcome State Fault Refusal :=
  withChars len s fun cs => s.runEan 12 cs State.genEan13

/-- ENC.EAN8 (R173). -/
def execEan8 (len : BitVec 16) (s : State) : Host.Outcome State Fault Refusal :=
  withChars len s fun cs => s.runEan 7 cs State.genEan8

end Sys2Proof.Machine
end

