-- ==== Sys2Proof/Machine/TwoOfFive.lean ====
section
/-! DEFINITION. The Standard and Interleaved 2-of-5 encoders (45_two_of_five.md). -/

namespace Sys2Proof.Machine

/-- S25Elem(w): a bar of 3 bits (Wide) or 1 bit (Narrow), then one space bit (R211). -/
def s25Elem : WidthChoice → Bits
  | .wide => pattern 4 0b1110
  | .narrow => pattern 2 0b10

/-- S25Digit(d) (R211). -/
def s25Digit (d : Digit) : Bits := (rowList (widthRow d)).flatMap s25Elem

/-- The Append calls of EncS2of5 (R212). -/
def s25Patterns (ds : List Digit) : List Bits := [s25Start] ++ ds.map s25Digit ++ [s25Stop]

/-- BarUnit(w): 2 bars (Wide) or 1 (Narrow) (R215). -/
def barUnit : WidthChoice → Bits
  | .wide => pattern 2 0b11
  | .narrow => pattern 1 0b1

/-- SpaceUnit(w): 2 spaces (Wide) or 1 (Narrow) (R215). -/
def spaceUnit : WidthChoice → Bits
  | .wide => pattern 2 0b00
  | .narrow => pattern 1 0b0

/-- I25Pair(a, b): bar units of a's row alternating with space units of b's (R216). -/
def i25Pair (a b : Digit) : Bits :=
  (List.zipWith (fun x y => barUnit x ++ spaceUnit y) (rowList (widthRow a)) (rowList (widthRow b))).flatten

/-- The pairs (d[0], d[1]), (d[2], d[3]), ... of a digit list (R217). -/
def i25Pairs : List Digit → List Bits
  | a :: b :: rest => i25Pair a b :: i25Pairs rest
  | _ => []

/-- The Append calls of EncI2of5 for an even number of digits (R217). -/
def i25Patterns (ds : List Digit) : List Bits := [i25Start] ++ i25Pairs ds ++ [i25Stop]

/-- EncS2of5 on the working registers (R212). -/
def State.runS2of5 (s : State) (cs : List Word) : State :=
  if cs.all isDigit = false then s.raise .wrongChar
  else
    let t := s.stage (cs.map dv)
    t.generate (s25Patterns t.staging)

/-- EncI2of5 on the working registers, under a value of I2OF5_EMPTY (R217, R220): an odd number of digits is padded with
its check digit (R116). -/
def State.runI2of5 (s : State) (policy : EmptyPolicy) (cs : List Word) : State :=
  if cs.all isDigit = false then s.raise .wrongChar
  else if cs.length = 0 ∧ policy = .wrongSize then s.raise .wrongSize
  else
    let t := s.stage (cs.map dv)
    if cs.length % 2 = 1 then
      let u := t.runChecksum t.staging
      let w := u.stage (u.staging ++ [u.checkDigit])
      w.generate (i25Patterns w.staging)
    else t.generate (i25Patterns t.staging)

/-- ENC.I2OF5 (R217). -/
def execI2of5 (len : BitVec 16) (s : State) : Host.Outcome State Fault Refusal :=
  withChars len s fun cs => s.runI2of5 Config.i2of5Empty cs

/-- ENC.S2OF5 (R212). -/
def execS2of5 (len : BitVec 16) (s : State) : Host.Outcome State Fault Refusal :=
  withChars len s fun cs => s.runS2of5 cs

end Sys2Proof.Machine
end

