-- ==== Sys2Proof/Machine/Dispatch.lean ====
section
/-! DEFINITION. The five-way dispatch (46_dispatch.md R230, R231): one arm per command, each one call of its meaning. -/

namespace Sys2Proof.Machine

def exec (i : Instr) (s : State) : Host.Outcome State Fault Refusal :=
  match i with
  | .code11 len => Sys2Proof.Machine.execCode11 len s
  | .ean13 len => Sys2Proof.Machine.execEan13 len s
  | .ean8 len => Sys2Proof.Machine.execEan8 len s
  | .i2of5 len => Sys2Proof.Machine.execI2of5 len s
  | .s2of5 len => Sys2Proof.Machine.execS2of5 len s

end Sys2Proof.Machine
end

