-- ==== Sys2Proof/Machine/Command.lean ====
section
/-! DEFINITION. Running the latched command (46_dispatch.md R234). -/

namespace Sys2Proof.Machine

/-- RunCommand(): decode the latched word; an illegal one completes with IllegalCommand and reads no CHAR_IN entry (R86, R256),
a legal one runs its encoder (R234). -/
def runCommand (s : State) : Host.Outcome State Fault Refusal :=
  match decode s.latched with
  | .ok i => exec i s
  | .error _ => .next (s.complete .illegal)

end Sys2Proof.Machine
end

