-- ==== Sys2Proof/Machine/Port.lean ====
section
/-! DEFINITION. The host port: the window map and the host's accesses (20_memory.md R51 to R54, R59; 10_state.md R24 to R30;
70_reset_and_hazards.md R284 to R286). -/

namespace Sys2Proof.Machine

/-- What a word offset of the window names (R22, R51). -/
inductive Region where
  | cmd
  | status
  | outLen
  | charIn (i : Nat)
  | bitOut (w : Nat)
  | reserved
  /-- Not in the window: the platform's (R51; DESIGN CHOICE, log entry 26). -/
  | outside
  deriving DecidableEq, Repr

/-- The size of the window in bytes: 2^20 (R50). -/
def windowSize : Nat := 0x100000

/-- The window map (R51), whose last row ends at 0xFFFFF. BIT_OUT word `w` exists when 32w < MAX_BITS, that is w < W_OUT. -/
def regionOf (off : Nat) : Region :=
  if windowSize ≤ off then .outside
  else if off = 0x00000 then .cmd
  else if off = 0x00004 then .status
  else if off = 0x00008 then .outLen
  else if off < 0x40000 then .reserved
  else if off < 0x80000 then
    if (off - 0x40000) / 4 < Config.maxChars then .charIn ((off - 0x40000) / 4) else .reserved
  else if 32 * ((off - 0x80000) / 4) < Config.maxBits then .bitOut ((off - 0x80000) / 4)
  else .reserved

/-- An access to the window that is not 32 bits wide or not aligned (R52), a bus error (R53). -/
def malformed (off width : Nat) : Bool :=
  decide (off < windowSize) && (decide (width ≠ 4) || decide (off % 4 ≠ 0))

/-- The port returns a word to the host. -/
def State.answer (s : State) (v : Word) : State := { s with answers := s.answers ++ [v] }

/-- The port returns an unspecified word: a fresh free value (R54, R286; DESIGN CHOICE, log entry 7). -/
def State.answerFree (s : State) : State :=
  { s with answers := s.answers ++ [Config.freeWord s.draws], draws := s.draws + 1 }

/-- MemRead(off, width): no read has a side effect on the block (R52, R65). -/
def memRead (off width : Nat) (s : State) : Host.Outcome State Fault Refusal :=
  if malformed off width then .fault .busError
  else
    match regionOf off with
    | .cmd => .next (s.answer s.cmd)
    | .status => .next (s.answer s.status.toWord)
    | .outLen => .next (s.answer s.outLen)
    | .charIn i =>
      match s.mem.charIn i with
      | some v => .next (s.answer v)
      | none => .next s.answerFree
    | .bitOut w => if s.seq = .run then .next s.answerFree else .next (s.answer (s.outWord w))
    | .reserved => .fault .busError
    | .outside => .fault .outsideWindow

/-- A write to CMD: ignored while a command runs (R24, R284), otherwise it starts one. -/
def writeCmd (v : Word) (s : State) : State := if s.seq = .run then s else s.startCommand v

/-- A write to CHAR_IN[i]: a race with the running command below LEN_L (R285), otherwise the entry takes the word (R54). -/
def writeCharIn (i : Nat) (v : Word) (s : State) : Host.Outcome State Fault Refusal :=
  if s.seq = .run ∧ i < s.lenL.toNat then .fault .inputRace
  else .next { s with mem := s.mem.setCharIn i v }

/-- MemWrite(off, width, v) (R52): writes to STATUS and OUT_LEN are ignored (R28, R30), BIT_OUT is read-only (R51, R53). -/
def memWrite (off width : Nat) (v : Word) (s : State) : Host.Outcome State Fault Refusal :=
  if malformed off width then .fault .busError
  else
    match regionOf off with
    | .cmd => .next (writeCmd v s)
    | .status => .next s
    | .outLen => .next s
    | .charIn i => writeCharIn i v s
    | .bitOut _ => .fault .busError
    | .reserved => .fault .busError
    | .outside => .fault .outsideWindow

/-- One RD STATUS of a POLL: the statement stays at the head until DONE reads 1 (R93). -/
def pollStatus (s : State) : State :=
  if s.status.done then s.answer s.status.toWord
  else { s.answer s.status.toWord with host := .poll :: s.host }

/-- RDO 0 .. ceil(n/32)-1 for an OUT_LEN of `n` (R96). -/
def outReads (n : Nat) : List HostOp := (List.range ((n + 31) / 32)).map fun w => .read (0x80000 + 4 * w) 4

/-- The last line of ENCODE: the BIT_OUT reads, only when CODE = 0 (R96). -/
def expandReadOut (s : State) : State :=
  if s.status.code = 0 then { s with host := outReads s.outLen.toNat ++ s.host } else s

/-- The port takes one statement of the host (R66). -/
def takeOp (op : HostOp) (s : State) : Host.Outcome State Fault Refusal :=
  match op with
  | .read off width => memRead off width s
  | .write off width v => memWrite off width v s
  | .poll => .next (pollStatus s)
  | .readOut => .next (expandReadOut s)
  | .reset => .next s.resetBlock

/-- The host's turn: its next statement, in order (R66); with none left nothing happens and all state stays (R266). -/
def hostTurn (s : State) : Host.Outcome State Fault Refusal :=
  match s.host with
  | [] => .next s
  | op :: rest => takeOp op { s with host := rest }

end Sys2Proof.Machine
end

