-- ==== Sys2Proof/Machine/Step.lean ====
section
/-! DEFINITION. One step: the running command completes, or the host takes a turn (10_state.md R33; 46_dispatch.md R234;
70_reset_and_hazards.md R289; DESIGN CHOICE, log entry 3). -/

namespace Sys2Proof.Machine

/-- One step. While SEQ = RUN the host has `delay` more turns before the command completes; otherwise the host moves. -/
def step (s : State) : Host.Outcome State Fault Refusal :=
  match s.seq with
  | .run =>
    match s.delay with
    | 0 => runCommand s
    | k + 1 => hostTurn { s with delay := k }
  | .idle => hostTurn s
  | .done => hostTurn s

/-- The state in which the command whose low `nbits` bits are `w` has just been written to CMD and completes at the next step
(R24, R234; DESIGN CHOICE, log entry 16). -/
def State.withFetchWord (s : State) (nbits w : Nat) : State := s.latch (BitVec.ofNat 32 (w % 2 ^ nbits)) 0

end Sys2Proof.Machine
end

