-- ==== Sys2Proof/Machine/HostProgram.lean ====
section
/-! DEFINITION. The host-program notation (30_encoding.md R93 to R96): each statement as the host accesses it stands for. -/

namespace Sys2Proof.Machine

/-- The registers a host program names (R93). -/
inductive HostReg where
  | cmd
  | status
  | outLen
  deriving DecidableEq, Repr

/-- offset(reg) (R22). -/
def regOffset : HostReg → Nat
  | .cmd => 0x00000
  | .status => 0x00004
  | .outLen => 0x00008

/-- `WR <reg>, <value>` (R93). -/
def stmtWR (r : HostReg) (v : Word) : HostOp := .write (regOffset r) 4 v

/-- `WRC <i>, '<c>'` (R93). -/
def stmtWRC (i : Nat) (c : Word) : HostOp := .write (charInOffset i) 4 c

/-- `RD <reg>` (R93). -/
def stmtRD (r : HostReg) : HostOp := .read (regOffset r) 4

/-- `RDO <w>` (R93). -/
def stmtRDO (w : Nat) : HostOp := .read (0x80000 + 4 * w) 4

/-- One WRC per character, in order, the first to entry `i`. -/
def writeCharsFrom : Nat → List Word → List HostOp
  | _, [] => []
  | i, c :: cs => stmtWRC i c :: writeCharsFrom (i + 1) cs

/-- `WRS "<string>"`, the string as its code points (R95). -/
def stmtWRS (cs : List Word) : List HostOp := writeCharsFrom 0 cs

/-- `ENCODE <FORMAT>, "<string>"` (R96). -/
def stmtENCODE (f : Format) (cs : List Word) : List HostOp :=
  stmtWRS cs ++ [stmtWR .cmd (encode (f.command (BitVec.ofNat 16 cs.length))), .poll, stmtRD .status, stmtRD .outLen, .readOut]

/-- The code points of a string (R89). -/
def codePoints (t : String) : List Word := t.toList.map fun c => BitVec.ofNat 32 c.toNat

/-- The spelling of a command, `ENC.<FORMAT> len=<n>` (R94). -/
def spelling (i : Instr) : String :=
  (match i with
    | .code11 _ => "ENC.CODE11"
    | .ean13 _ => "ENC.EAN13"
    | .ean8 _ => "ENC.EAN8"
    | .i2of5 _ => "ENC.I2OF5"
    | .s2of5 _ => "ENC.S2OF5") ++ " len=" ++ toString i.len.toNat

end Sys2Proof.Machine
end

