-- ==== Sys2Proof/Machine/Platform.lean ====
section
/-! DEFINITION. Several instances on one platform (00_scope.md R5, R14; 20_memory.md R70; 60_exceptions.md R264): each has its own
window, registers and buffers, and they share only the constant tables. The parameters other than BASE are the same for all
(R5; DESIGN CHOICE, log entry 27). -/

namespace Sys2Proof.Machine

/-- The platform out of reset: N_INST instances, every one IDLE (R264). -/
def platformReset : List State := List.replicate Config.nInst State.reset

/-- A bus address lies in the window of instance `k` (R50, R51). -/
def inWindow (k addr : Nat) : Bool := decide (Config.base k ≤ addr) && decide (addr < Config.base k + windowSize)

/-- The byte offset of a bus address in the window of instance `k` (R22). -/
def windowOffset (k addr : Nat) : Nat := addr - Config.base k

/-- A host access at a bus address joins the port queue of the instance whose window holds it, as an access at its byte offset there;
an address outside every window is the platform's and reaches no instance (R51). -/
def busAccess (p : List State) (addr : Nat) (op : Nat → HostOp) : List State :=
  p.mapIdx fun k s => if inWindow k addr then { s with host := s.host ++ [op (windowOffset k addr)] } else s

/-- Instance `k` takes one step; the others do not move. With no such instance nothing happens. -/
def platformStep (p : List State) (k : Nat) : Host.Outcome (List State) Fault Refusal :=
  match p[k]? with
  | none => .next p
  | some s =>
    match step s with
    | .next t => .next (p.set k t)
    | .fault r => .fault r
    | .refused r => .refused r

end Sys2Proof.Machine
end

