-- ==== Sys2Proof/Machine/Encode.lean ====
section
/-! DEFINITION. ENCODE, the functional core (46_dispatch.md R230): a total function of the format, the characters and
I2OF5_EMPTY. The commands run on the working registers instead (Ean.lean, Code11.lean, TwoOfFive.lean); R32 lets the two be
compared. -/

namespace Sys2Proof.Machine

/-- The digits an EAN encoder emits from `cs` with `m` payload digits: arity (R232), characters, check digit verified or
appended (R170, R173). -/
def eanDigits (m : Nat) (cs : List Word) : Except EncodingError (List Digit) :=
  if cs.length ≠ m ∧ cs.length ≠ m + 1 then .error .wrongSize
  else if cs.all isDigit = false then .error .wrongChar
  else
    let ds := cs.map dv
    let c := checksum (ds.take m)
    if cs.length = m + 1 then
      if ds.getD m 0 ≠ c then .error .wrongChecksum else .ok ds
    else .ok (ds ++ [c])

/-- EncEAN13(cs) (R170). -/
def encEan13 (cs : List Word) : Except EncodingError Bits :=
  match eanDigits 12 cs with
  | .error k => .error k
  | .ok ds => .ok (ean13Patterns (parityRow (ds.getD 0 0)) fun j => ds.getD j 0).flatten

/-- EncEAN8(cs) (R173). -/
def encEan8 (cs : List Word) : Except EncodingError Bits :=
  match eanDigits 7 cs with
  | .error k => .error k
  | .ok ds => .ok (ean8Patterns fun j => ds.getD j 0).flatten

/-- EncCode11(cs) (R192). -/
def encCode11 (cs : List Word) : Except EncodingError Bits := .ok (code11Patterns cs).flatten

/-- EncS2of5(cs) (R212). -/
def encS2of5 (cs : List Word) : Except EncodingError Bits :=
  if cs.all isDigit = false then .error .wrongChar else .ok (s25Patterns (cs.map dv)).flatten

/-- EncI2of5(cs) under a value of I2OF5_EMPTY (R217, R220). -/
def encI2of5 (policy : EmptyPolicy) (cs : List Word) : Except EncodingError Bits :=
  if cs.all isDigit = false then .error .wrongChar
  else if cs.length = 0 ∧ policy = .wrongSize then .error .wrongSize
  else
    let ds := cs.map dv
    .ok (i25Patterns (if cs.length % 2 = 1 then ds ++ [checksum ds] else ds)).flatten

/-- ENCODE(fmt, cs) (R230, R231): exactly five arms. -/
def encodeSymbol (policy : EmptyPolicy) (f : Format) (cs : List Word) : Except EncodingError Bits :=
  match f with
  | .ean13 => encEan13 cs
  | .ean8 => encEan8 cs
  | .code11 => encCode11 cs
  | .interleaved2of5 => encI2of5 policy cs
  | .standard2of5 => encS2of5 cs

end Sys2Proof.Machine
end

