-- ==== Sys2Proof/Safety.lean ====
section
/-! DEFINITION. What the claims are stated in: the invariant of the block's states and what a host can read of a result. -/

namespace Sys2Proof.Machine

/-- STATUS agrees with SEQ: BUSY exactly in RUN, DONE exactly in DONE (R33), CODE at most 4 (R251) and 0 before a completion
(R26). -/
structure State.StatusInv (s : State) : Prop where
  busy_iff : s.status.busy = true ↔ s.seq = .run
  done_iff : s.status.done = true ↔ s.seq = .done
  code_le : s.status.code.toNat ≤ 4
  code_zero : s.seq ≠ .done → s.status.code = 0

/-- OUT_LEN is 0 but after a success, when it is the number of BIT_OUT bits the command produced, at most MAX_BITS (R29, R60,
R61). -/
structure State.OutputInv (s : State) : Prop where
  outLen_zero : (s.seq ≠ .done ∨ s.status.code ≠ 0) → s.outLen = 0
  outLen_eq : s.seq = .done → s.status.code = 0 → s.outLen.toNat = s.bitOut.length
  bits_le : s.bitOut.length ≤ Config.maxBits
  wptr_le : s.wptr ≤ Config.maxBits

/-- CHAR_IN holds its canonical form and lists only bytes of its own entries (R51, R54). -/
structure State.InputInv (s : State) : Prop where
  mem_wf : s.mem.wf = true
  mem_range : ∀ a, (s.mem.readByte a).isSome = true → 0x40000 ≤ a ∧ a < 0x40000 + 4 * Config.maxChars

/-- ACC and CHK hold 0 to 9 only (R35). -/
structure State.AccInv (s : State) : Prop where
  acc_le : s.acc.toNat ≤ 9
  chk_le : s.chk.toNat ≤ 9

/-- Out of IDLE the latched command is CMD's last accepted value (R24, R25, R34). -/
def State.LatchInv (s : State) : Prop := s.seq ≠ .idle → s.latched = s.cmd

/-- The invariant of the block. -/
structure State.Inv (s : State) : Prop where
  status : s.StatusInv
  output : s.OutputInv
  input : s.InputInv
  acc : s.AccInv
  latch : s.LatchInv

/-- CHAR_IN[0..n-1] holds the characters `cs`, each written by the host (R54, R55). -/
def State.Holds (s : State) (cs : List Word) : Prop := ∀ i, (h : i < cs.length) → s.mem.charIn i = some cs[i]

/-- The registers a completion leaves for a result of ENCODE (R27): the state's STATUS, OUT_LEN, SEQ and, for a success, the first
OUT_LEN bits of BIT_OUT. -/
def State.Shows (t : State) (res : Except EncodingError Bits) : Prop :=
  match res with
  | .ok bits =>
    t.status = statusCompleted .ok ∧ t.seq = .done ∧ t.outLen = BitVec.ofNat 32 bits.length ∧ t.bitOut = bits
  | .error kind => t.status = statusCompleted (.err kind) ∧ t.seq = .done ∧ t.outLen = 0

/-- What no command changes: CMD, the latched command, CHAR_IN, the host and its answers (R25, R34, R56). -/
def State.SameOutside (s t : State) : Prop :=
  t.cmd = s.cmd ∧ t.fmtL = s.fmtL ∧ t.rsvL = s.rsvL ∧ t.lenL = s.lenL ∧ t.mem = s.mem ∧ t.host = s.host ∧
    t.answers = s.answers ∧ t.delay = s.delay

/-- The block's own part of a state is the same: everything but the host, its answers, the remaining delay and the draw count. -/
def SameBlock (s t : State) : Prop :=
  t.cmd = s.cmd ∧ t.status = s.status ∧ t.outLen = s.outLen ∧ t.seq = s.seq ∧ t.fmtL = s.fmtL ∧ t.rsvL = s.rsvL ∧
    t.lenL = s.lenL ∧ t.acc = s.acc ∧ t.chk = s.chk ∧ t.par = s.par ∧ t.wptr = s.wptr ∧ t.staging = s.staging ∧
    t.mem = s.mem ∧ t.bitOut = s.bitOut ∧ t.outDraw = s.outDraw

/-- Offsets of the window R51 leaves reserved. -/
def ReservedOffset (off : Nat) : Prop :=
  (0x0000C ≤ off ∧ off < 0x40000) ∨ (0x40000 + 4 * Config.maxChars ≤ off ∧ off < 0x80000) ∨
    (0x80000 + 4 * Config.outWords ≤ off ∧ off < 0x100000)

/-- Offsets of the words R51 maps. -/
def MappedOffset (off : Nat) : Prop :=
  off = 0x00000 ∨ off = 0x00004 ∨ off = 0x00008 ∨ (∃ i, i < Config.maxChars ∧ off = 0x40000 + 4 * i) ∨
    ∃ w, w < Config.outWords ∧ off = 0x80000 + 4 * w

/-- A host statement that a running command is not disturbed by: a read of a mapped word, a write that is ignored or goes to an entry at
or above LEN_L (R28, R30, R284, R285), a poll, or output reads of no word. -/
def State.HarmlessOp (s : State) : HostOp → Prop
  | .read off width => width = 4 ∧ MappedOffset off
  | .write off width _ => width = 4 ∧ (off = 0x00000 ∨ off = 0x00004 ∨ off = 0x00008 ∨
      ∃ i, s.lenL.toNat ≤ i ∧ i < Config.maxChars ∧ off = 0x40000 + 4 * i)
  | .poll => True
  | .readOut => s.status.code ≠ 0 ∨ s.outLen = 0
  | .reset => False

/-- The 95 bits of an EAN13 symbol, region by region (R171). -/
def ean13Bits (d : Nat → Digit) : Bits :=
  pattern 3 0b101 ++ codeL (d 1) ++ leftHand (parityRow (d 0)) (d 2) 0 ++ leftHand (parityRow (d 0)) (d 3) 1 ++
    leftHand (parityRow (d 0)) (d 4) 2 ++ leftHand (parityRow (d 0)) (d 5) 3 ++ leftHand (parityRow (d 0)) (d 6) 4 ++
    pattern 5 0b01010 ++ codeR (d 7) ++ codeR (d 8) ++ codeR (d 9) ++ codeR (d 10) ++ codeR (d 11) ++ codeR (d 12) ++
    pattern 3 0b101

/-- The 67 bits of an EAN8 symbol, region by region (R174). -/
def ean8Bits (d : Nat → Digit) : Bits :=
  pattern 3 0b101 ++ codeL (d 0) ++ codeL (d 1) ++ codeL (d 2) ++ codeL (d 3) ++ pattern 5 0b01010 ++ codeR (d 4) ++
    codeR (d 5) ++ codeR (d 6) ++ codeR (d 7) ++ pattern 3 0b101

/-- The bits of a Code11 symbol: each table character and its separator between start, separator and stop (R192). -/
def code11Bits (cs : List Word) : Bits :=
  pattern 8 0b10110010 ++ cs.flatMap (fun c => ((code11Table c.toNat).map (· ++ [false])).getD []) ++ pattern 7 0b1011001

/-- The bits of an Interleaved 2-of-5 symbol for an even number of digits (R216, R217). -/
def i25Bits (ds : List Digit) : Bits :=
  pattern 4 0b1010 ++ (List.range (ds.length / 2)).flatMap (fun p => i25Pair (ds.getD (2 * p) 0) (ds.getD (2 * p + 1) 0)) ++
    pattern 4 0b1101

/-- The digits of a payload followed by its check digit, by index. -/
def withCheck (ds : List Digit) (j : Nat) : Digit := (ds ++ [checksum ds]).getD j 0

end Sys2Proof.Machine
end

