-- ==== Sys2Proof/Certificates/Slice0/Obligations.lean ====
section
/-! DEFINITION. The statements for the provers. Each docstring names the rule of spec/ it formalises. -/

open Sys2Proof Sys2Proof.Machine

/-! ## Command words (30_encoding.md) -/

/-- R81, R88, R92: decode and encode agree, for every command and every buffer size: a well-formed command's word decodes to it,
and a word that decodes is the word of the command it decodes to. -/
def Obligations.DecodeEncodeAgree : Prop :=
  (∀ (m : Nat) (i : Instr), i.wfWith m = true → decodeWith m (encode i) = .ok i) ∧
    ∀ (m : Nat) (v : Word) (i : Instr), decodeWith m v = .ok i → i.wfWith m = true ∧ encode i = v

/-- R94: the word of a command is (n << 16) | FMT.
The spec marks R94 [derived], its own inference from the rules cited. -/
def Obligations.CommandWordNumber : Prop :=
  ∀ i : Instr, (encode i).toNat = i.len.toNat * 2 ^ 16 + (fmtOf i.format).toNat

/-- R85: the three conditions of a legal command word, on the number it is. -/
def Obligations.LegalExactlyWhen : Prop :=
  ∀ v : Word, legal v = true ↔ v.toNat % 8 ≤ 4 ∧ v.toNat / 8 % 2 ^ 13 = 0 ∧ v.toNat / 2 ^ 16 ≤ Config.maxChars

/-- R92, with 95_test_vectors.md T80 to T92: some words written out from the encoding.
The spec marks R94 [derived], its own inference from the rules cited. -/
def Obligations.SampleWordsDecode : Prop :=
  decodeTableWord 32 0x000D0001 = some (.ean13 13) ∧ decodeTableWord 32 0x00080002 = some (.ean8 8) ∧
    decodeTableWord 32 0x00080000 = some (.code11 8) ∧ decodeTableWord 32 0x00070003 = some (.i2of5 7) ∧
    decodeTableWord 32 0x00080004 = some (.s2of5 8) ∧ decodeTableWord 32 0x00000005 = none ∧
    decodeTableWord 32 0x00000008 = none ∧ decodeTableWord 32 0x000D8001 = none ∧
    decodeWith 13 0x000E0000 = .error .lengthTooLong ∧ decodeWith 14 0x000E0000 = .ok (.code11 14)

/-! ## Registers (10_state.md) -/

/-- R24: a CMD write while RUN has no effect; otherwise it stores and latches the word, sets BUSY, clears DONE, CODE and OUT_LEN,
leaves BIT_OUT, and SEQ becomes RUN; nothing else starts a command. The delay and the draw count are the model's own. -/
def Obligations.CmdWriteStartsCommand : Prop :=
  (∀ (s : State) (v : Word), s.seq = .run → takeOp (.write 0 4 v) s = .next s) ∧
    (∀ (s : State) (v : Word), s.seq ≠ .run → ∃ k n, takeOp (.write 0 4 v) s =
      .next { s with cmd := v, fmtL := v.extractLsb' 0 3, rsvL := v.extractLsb' 3 13, lenL := v.extractLsb' 16 16,
                     status := ⟨true, false, 0⟩, outLen := 0, seq := .run, delay := k, draws := n }) ∧
    ∀ s t : State, s.seq ≠ .run → step s = .next t → t.seq = .run → ∃ v rest, s.host = .write 0 4 v :: rest

/-- R25: CMD reads as the last value a write that took effect gave it, or 0 after reset: a read returns the register and changes
nothing else, and a step changes the register only by such a write or a reset. -/
def Obligations.CmdHoldsLastAcceptedWrite : Prop :=
  State.reset.cmd = 0 ∧
    (∀ s : State, takeOp (.read 0 4) s = .next { s with answers := s.answers ++ [s.cmd] }) ∧
    ∀ s t : State, step s = .next t →
      t.cmd = s.cmd ∨ (∃ v rest, s.host = .write 0 4 v :: rest ∧ s.seq ≠ .run ∧ t.cmd = v) ∨
        ∃ rest, s.host = .reset :: rest ∧ t.cmd = 0

/-- R28, R30: host writes to STATUS and OUT_LEN change nothing. -/
def Obligations.ReadOnlyRegisterWritesIgnored : Prop :=
  ∀ (s : State) (v : Word), takeOp (.write 4 4 v) s = .next s ∧ takeOp (.write 8 4 v) s = .next s

/-- R26: the word a STATUS read returns is BUSY in bit 0, DONE in bit 1, CODE in bits 4 to 2 and 0 above. -/
def Obligations.StatusReadLayout : Prop :=
  ∀ s : State, ∃ w : Word, takeOp (.read 4 4) s = .next { s with answers := s.answers ++ [w] } ∧
    w.toNat = s.status.busy.toNat + 2 * s.status.done.toNat + 4 * s.status.code.toNat

/-- R33: SEQ moves only as stated, and STATUS agrees with it. That a command completes when no host turn is left is the model's count of
LATENCY (log entry 3). -/
def Obligations.SequencerTransitions : Prop :=
  ∀ s t : State, s.Inv → step s = .next t →
    (t.seq = s.seq ∨ (s.seq ≠ .run ∧ t.seq = .run ∧ ∃ v rest, s.host = .write 0 4 v :: rest) ∨
      (s.seq = .run ∧ t.seq = .done ∧ s.delay = 0) ∨ (t.seq = .idle ∧ ∃ rest, s.host = .reset :: rest)) ∧
    (t.status.busy = true ↔ t.seq = .run) ∧ (t.status.done = true ↔ t.seq = .done)

/-- R26, R29, R33, R34, R35, R37, R51, R61: every step keeps the block's invariant, from every state that meets it. What it says of
ACC, CHK and WPTR after a reset the host makes rests on the model's reset values (log entry 8).
The spec marks R61 [derived], its own inference from the rules cited. -/
def Obligations.StepKeepsBlockInvariant : Prop :=
  ∀ s t : State, s.Inv → step s = .next t → t.Inv

/-- R280: the state after reset meets the block's invariant. What it says there of ACC, CHK and WPTR rests on the model's reset values
(log entry 8). -/
def Obligations.ResetMeetsBlockInvariant : Prop := State.reset.Inv

/-- R280, R281: what a reset leaves, from any state, a command running or not. The values of the hidden registers are the
model's (log entry 8) and are not stated. -/
def Obligations.ResetLeaves : Prop :=
  ∀ s : State, ∃ t, takeOp .reset s = .next t ∧ t.cmd = 0 ∧ t.status = ⟨false, false, 0⟩ ∧ t.outLen = 0 ∧ t.seq = .idle ∧
    (∀ i, t.mem.charIn i = none) ∧ (∀ j, t.outBit j = Config.freeBit s.draws j) ∧ t.host = s.host ∧ t.answers = s.answers

/-! ## The host window (20_memory.md) -/

/-- R51: the places of CHAR_IN and BIT_OUT in the window. -/
def Obligations.WindowMapFits : Prop :=
  (∀ i, i < Config.maxChars → regionOf (0x40000 + 4 * i) = .charIn i) ∧
    (∀ w, w < Config.outWords → regionOf (0x80000 + 4 * w) = .bitOut w) ∧
    0x40000 + 4 * Config.maxChars - 1 ≤ 0x7FFFB ∧ Config.outWords ≤ 28673 ∧ 0x80000 + 4 * Config.outWords - 1 ≤ 0x9C003

/-- R53: the accesses to the window that get a bus error. -/
def Obligations.BusErrorAccesses : Prop :=
  (∀ (s : State) (off width : Nat) (v : Word), off < 0x100000 → width ≠ 4 ∨ off % 4 ≠ 0 ∨ ReservedOffset off →
    takeOp (.read off width) s = .fault .busError ∧ takeOp (.write off width v) s = .fault .busError) ∧
    ∀ (s : State) (w : Nat) (v : Word), w < Config.outWords → takeOp (.write (0x80000 + 4 * w) 4 v) s = .fault .busError

/-- R52, R65: every read of a mapped word completes with one word and no side effect on the block. -/
def Obligations.MappedReadsHaveNoSideEffect : Prop :=
  ∀ (s : State) (off : Nat), MappedOffset off → ∃ t v, takeOp (.read off 4) s = .next t ∧ SameBlock s t ∧
    t.answers = s.answers ++ [v] ∧ t.host = s.host ∧ t.delay = s.delay

/-- R22, R29, R52: a read of OUT_LEN returns the register, in every state, and changes nothing else. In a state that meets the block's
invariant it is the number of output bits after a success and 0 otherwise. A step changes the register only by a CMD write or
a reset, to 0, or by a completion. -/
def Obligations.OutLenReadReturnsRegister : Prop :=
  (∀ s : State, takeOp (.read 8 4) s = .next { s with answers := s.answers ++ [s.outLen] }) ∧
    (∀ s : State, s.Inv → s.outLen.toNat = if s.seq = .done ∧ s.status.code = 0 then s.bitOut.length else 0) ∧
    ∀ s t : State, step s = .next t →
      t.outLen = s.outLen ∨ (t.outLen = 0 ∧ s.seq ≠ .run ∧ ∃ v rest, s.host = .write 0 4 v :: rest) ∨
        (t.outLen = 0 ∧ ∃ rest, s.host = .reset :: rest) ∨ (s.seq = .run ∧ t.seq = .done)

/-- R54: a character write stores its word in its own entry alone, and a read returns it; a written entry reads as the word it holds,
a command running or not; an entry not written since reset reads as an unspecified word, here the free value of the next draw
(log entry 7). -/
def Obligations.CharInStoresAndReads : Prop :=
  (∀ (s : State) (i : Nat) (v : Word), i < Config.maxChars → s.seq ≠ .run →
    ∃ t, takeOp (.write (0x40000 + 4 * i) 4 v) s = .next t ∧ t.mem.charIn i = some v ∧
      (∀ j, j ≠ i → t.mem.charIn j = s.mem.charIn j) ∧ t = { s with mem := t.mem } ∧
      takeOp (.read (0x40000 + 4 * i) 4) t = .next { t with answers := t.answers ++ [v] }) ∧
    (∀ (s : State) (i : Nat) (v : Word), i < Config.maxChars → s.mem.charIn i = some v →
      takeOp (.read (0x40000 + 4 * i) 4) s = .next { s with answers := s.answers ++ [v] }) ∧
    ∀ (s : State) (i : Nat), i < Config.maxChars → s.mem.charIn i = none →
      takeOp (.read (0x40000 + 4 * i) 4) s =
        .next { s with answers := s.answers ++ [Config.freeWord s.draws], draws := s.draws + 1 }

/-- R54, R56: an entry keeps its value until the host rewrites it or a reset: the block writes none. -/
def Obligations.CharInPersists : Prop :=
  ∀ (s t : State) (i : Nat), step s = .next t → t.mem.charIn i = s.mem.charIn i ∨
    (∃ v rest, s.host = .write (0x40000 + 4 * i) 4 v :: rest ∧ t.mem.charIn i = some v) ∨
    ∃ rest, s.host = .reset :: rest

/-- R58: output bit j is bit j & 31 of BIT_OUT word j >> 5. -/
def Obligations.BitOutPacking : Prop :=
  ∀ (s : State) (j : Nat), j < Config.maxBits → s.seq ≠ .run →
    ∃ v : Word, takeOp (.read (0x80000 + 4 * (j >>> 5)) 4) s = .next { s with answers := s.answers ++ [v] } ∧
      v.getLsbD (j &&& 31) = s.outBit j

/-- R60: an Append writes its bits at the write pointer, in order, keeps the bits before it and moves the pointer. -/
def Obligations.AppendExtendsOutput : Prop :=
  ∀ (s : State) (p : Bits), s.wptr ≤ s.bitOut.length →
    (s.append p).wptr = s.wptr + p.length ∧ (∀ k, (h : k < p.length) → (s.append p).outBit (s.wptr + k) = p[k]) ∧
      ∀ j, j < s.wptr → (s.append p).outBit j = s.outBit j

/-- R285: a CHAR_IN write below LEN_L while RUN is an InputRace, at or above it takes effect at once. -/
def Obligations.CharInWriteWhileBusy : Prop :=
  ∀ (s : State) (i : Nat) (v : Word), i < Config.maxChars → s.seq = .run →
    (i < s.lenL.toNat → takeOp (.write (0x40000 + 4 * i) 4 v) s = .fault .inputRace) ∧
      (s.lenL.toNat ≤ i → ∃ t, takeOp (.write (0x40000 + 4 * i) 4 v) s = .next t ∧ t.mem.charIn i = some v ∧
        (∀ j, j ≠ i → t.mem.charIn j = s.mem.charIn j) ∧ t = { s with mem := t.mem })

/-- R286: what the host reads while SEQ = RUN; BIT_OUT words are unspecified, here the free value of the next draw (log
entry 7). -/
def Obligations.ReadsWhileBusy : Prop :=
  ∀ s : State, s.Inv → s.seq = .run →
    takeOp (.read 4 4) s = .next { s with answers := s.answers ++ [1] } ∧
      takeOp (.read 8 4) s = .next { s with answers := s.answers ++ [0] } ∧
      ∀ w, w < Config.outWords → takeOp (.read (0x80000 + 4 * w) 4) s =
        .next { s with answers := s.answers ++ [Config.freeWord s.draws], draws := s.draws + 1 }

/-- R284: a CMD write that arrives while a command runs is lost and the command goes on. The turns are the model's count of LATENCY
(log entry 3). -/
def Obligations.CmdWriteWhileBusyLost : Prop :=
  ∀ (s : State) (v : Word) (rest : List HostOp) (k : Nat), s.seq = .run → s.delay = k + 1 → s.host = .write 0 4 v :: rest →
    step s = .next { s with delay := k, host := rest }

/-- R287, R266: a result stays until the next CMD write or reset. -/
def Obligations.ResultLifetime : Prop :=
  ∀ s t : State, s.seq = .done → step s = .next t → (∀ v rest, s.host ≠ .write 0 4 v :: rest) →
    (∀ rest, s.host ≠ .reset :: rest) →
    t.seq = .done ∧ t.status = s.status ∧ t.outLen = s.outLen ∧ t.bitOut = s.bitOut ∧ ∀ j, t.outBit j = s.outBit j

/-! ## Checksum (40_checksum.md) -/

/-- R114: the check register of the accumulator datapath is the check digit function, for every list of digits.
The spec marks R114 [derived], its own inference from the rules cited. -/
def Obligations.AccumulatorGivesChecksum : Prop :=
  ∀ ds : List Digit, (checkOf (accRun 0 ds.reverse 0)).toNat = (checksum ds).val

/-- R112, R119: one adder step stays in range and does not wrap.
The spec marks R119 [derived], its own inference from the rules cited. -/
def Obligations.AdderStepInRange : Prop :=
  ∀ (acc : BitVec 4) (k : Nat) (d : Digit), acc.toNat ≤ 9 →
    weight k * d.val ≤ 27 ∧ acc.toNat + weight k * d.val ≤ 36 ∧
      (accStep acc k d).toNat = (acc.toNat + weight k * d.val) % 10 ∧ (accStep acc k d).toNat ≤ 9

/-- R118: corner cases of the check digit.
The spec marks R118 [derived], its own inference from the rules cited. -/
def Obligations.ChecksumCornerCases : Prop :=
  checksum [] = 0 ∧ (∀ n, checksum (List.replicate n 0) = 0) ∧
    (∀ ds : List Digit, weightedSum 0 ds.reverse % 10 = 0 → checksum ds = 0) ∧
    (∀ ds : List Digit, weightedSum 0 ds.reverse % 10 = 1 → checksum ds = 9) ∧
    (∀ d : Digit, (checksum [d]).val = (10 - 3 * d.val % 10) % 10) ∧
    ∀ (n : Nat) (ds : List Digit), checksum (List.replicate n 0 ++ ds) = checksum ds

/-! ## Tables (41_parity.md, 42_width.md, 45_two_of_five.md) -/

/-- R139, R140: the relations between the EAN code tables, and their widths.
The spec marks R139 [derived], its own inference from the rules cited. -/
def Obligations.CodeTableRelations : Prop :=
  ∀ d : Digit, codeR d = (codeL d).map (! ·) ∧ codeG d = (codeR d).reverse ∧
    ((codeL d).count true = 3 ∨ (codeL d).count true = 5) ∧ ((codeG d).count true = 2 ∨ (codeG d).count true = 4) ∧
    (codeL d).length = 7 ∧ (codeG d).length = 7 ∧ (codeR d).length = 7

/-- R131, R132: row 0 is all Odd, every other row has exactly three Even entries, and the rows differ. Rows marked GK rest on
log entry 17.
The spec marks R132 [derived], its own inference from the rules cited. -/
def Obligations.ParityRowsShape : Prop :=
  parityRow 0 = ⟨.odd, .odd, .odd, .odd, .odd⟩ ∧
    (∀ d : Digit, d ≠ 0 → (rowList (parityRow d)).count .even = 3) ∧
    ∀ d e : Digit, parityRow d = parityRow e → d = e

/-- R152: the width rows are exactly the ten ways to choose 2 of 5 positions, each once.
The spec marks R152 [derived], its own inference from the rules cited. -/
def Obligations.WidthRowsAreTwoOfFive : Prop :=
  (∀ d : Digit, (rowList (widthRow d)).count .wide = 2 ∧ (rowList (widthRow d)).count .narrow = 3) ∧
    (∀ d e : Digit, widthRow d = widthRow e → d = e) ∧
    ∀ r : Row WidthChoice, (rowList r).count .wide = 2 → ∃ d, widthRow d = r

/-- R211, R216: every Standard 2-of-5 digit and every Interleaved 2-of-5 pair takes 14 bits.
The spec marks R152 [derived], its own inference from the rules cited. -/
def Obligations.TwoOfFiveUnitsTake14Bits : Prop :=
  (∀ d : Digit, (s25Digit d).length = 14) ∧ ∀ a b : Digit, (i25Pair a b).length = 14

/-! ## What each command completes with -/

/-- R192: ENC.CODE11 on any written characters completes with OK and the Code11 symbol. -/
def Obligations.Code11Completes : Prop :=
  ∀ (s : State) (len : BitVec 16) (cs : List Word), cs.length = len.toNat → s.Holds cs →
    ∃ t, exec (.code11 len) s = .next t ∧ t.Shows (.ok (code11Bits cs))

/-- R170, R171: ENC.EAN13 on 12 digits, or on 12 digits and their check digit, completes with OK and the 95 bits of the layout.
The spec marks R171 [derived], its own inference from the rules cited. That CHK and PAR still hold R113's and R131's values after the
command is the model's choice (log entry 11, DEDUCED). -/
def Obligations.Ean13Completes : Prop :=
  ∀ (s : State) (ds : List Digit) (cs : List Word) (len : BitVec 16), ds.length = 12 →
    (cs = ds.map digitChar ∨ cs = (ds ++ [checksum ds]).map digitChar) → cs.length = len.toNat → s.Holds cs →
    ∃ t, exec (.ean13 len) s = .next t ∧ t.Shows (.ok (ean13Bits (withCheck ds))) ∧ t.outLen = 95 ∧
      t.chk.toNat = (checksum ds).val ∧ t.par = parityRow (withCheck ds 0)

/-- R173, R174: ENC.EAN8 on 7 digits, or on 7 digits and their check digit, completes with OK and the 67 bits of the layout.
The spec marks R174 [derived], its own inference from the rules cited. That CHK still holds R113's value after the command is the
model's choice (log entry 11, DEDUCED). -/
def Obligations.Ean8Completes : Prop :=
  ∀ (s : State) (ds : List Digit) (cs : List Word) (len : BitVec 16), ds.length = 7 →
    (cs = ds.map digitChar ∨ cs = (ds ++ [checksum ds]).map digitChar) → cs.length = len.toNat → s.Holds cs →
    ∃ t, exec (.ean8 len) s = .next t ∧ t.Shows (.ok (ean8Bits (withCheck ds))) ∧ t.outLen = 67 ∧
      t.chk.toNat = (checksum ds).val

/-- R217: ENC.I2OF5 on one digit or more completes with OK and the pairs of the digits, an odd number padded with the check digit;
on none, as I2OF5_EMPTY says (R220). -/
def Obligations.I2of5Completes : Prop :=
  (∀ (s : State) (ds : List Digit) (len : BitVec 16), ds.length = len.toNat → 1 ≤ ds.length → s.Holds (ds.map digitChar) →
    ∃ t, exec (.i2of5 len) s = .next t ∧
      t.Shows (.ok (i25Bits (if ds.length % 2 = 1 then ds ++ [checksum ds] else ds)))) ∧
    ∀ s : State, ∃ t, exec (.i2of5 0) s = .next t ∧
      t.Shows (match Config.i2of5Empty with
        | .accept => .ok (pattern 8 0b10101101)
        | .wrongSize => .error .wrongSize)

/-- R212: ENC.S2OF5 on any number of digits completes with OK and 14 bits a digit between start and stop. -/
def Obligations.S2of5Completes : Prop :=
  ∀ (s : State) (ds : List Digit) (len : BitVec 16), ds.length = len.toNat → s.Holds (ds.map digitChar) →
    ∃ t, exec (.s2of5 len) s = .next t ∧
      t.Shows (.ok (pattern 8 0b11011010 ++ ds.flatMap s25Digit ++ pattern 7 0b1101011))

/-- R234, R32: every command on written characters completes, and what it shows the host is ENCODE of its format and characters:
the working registers replaced by one evaluation change no observation.
The spec marks R32 [derived], its own inference from the rules cited. -/
def Obligations.CommandRefinesEncode : Prop :=
  ∀ (i : Instr) (s : State) (cs : List Word), cs.length = i.len.toNat → s.Holds cs →
    ∃ t, exec i s = .next t ∧ t.Shows (encodeSymbol Config.i2of5Empty i.format cs)

/-- R55, R234: a command that reads an entry not written since reset stops with UnwrittenInput at the first such entry. That an EAN
command of a wrong length stops so too, before WrongSize (R232), is read from the order of R234 (log entry 12). -/
def Obligations.UnwrittenInputStops : Prop :=
  ∀ (i : Instr) (s : State) (k : Nat), k < i.len.toNat → s.mem.charIn k = none →
    (∀ j, j < k → (s.mem.charIn j).isSome = true) → exec i s = .fault (.unwrittenInput k)

/-- R24, R86, R256: an illegal command word starts, runs no encoder and completes with code 4, OUT_LEN 0 and BIT_OUT, CHAR_IN and the
working registers as they were. That no host turn falls between is log entry 13; that the working registers stay is the model's
choice (log entry 11, DEDUCED). -/
def Obligations.IllegalCommandCompletes : Prop :=
  ∀ (s : State) (v : Word) (rest : List HostOp), s.seq ≠ .run → s.host = .write 0 4 v :: rest → legal v = false →
    ∃ t, core.run 2 s = .next t ∧ t.cmd = v ∧ t.status = ⟨false, true, 4⟩ ∧ t.outLen = 0 ∧ t.seq = .done ∧ t.host = rest ∧
      t.mem = s.mem ∧ t.bitOut = s.bitOut ∧ (∀ j, t.outBit j = s.outBit j) ∧ t.acc = s.acc ∧ t.chk = s.chk ∧
      t.par = s.par ∧ t.wptr = s.wptr ∧ t.staging = s.staging

/-! ## Errors (60_exceptions.md) -/

/-- R252: WrongSize is code 1, and exactly when ENCODE reports it. -/
def Obligations.WrongSizeExactlyWhen : Prop :=
  errorCode .wrongSize = 1 ∧ ∀ (p : EmptyPolicy) (f : Format) (cs : List Word), encodeSymbol p f cs = .error .wrongSize ↔
    (f = .ean13 ∧ cs.length ≠ 12 ∧ cs.length ≠ 13) ∨ (f = .ean8 ∧ cs.length ≠ 7 ∧ cs.length ≠ 8) ∨
      (f = .interleaved2of5 ∧ cs.length = 0 ∧ p = .wrongSize)

/-- R253, R254: WrongChar is code 2, and exactly when ENCODE reports it: some character is no ASCII digit, the format is not Code11, and an EAN
length is right. -/
def Obligations.WrongCharExactlyWhen : Prop :=
  errorCode .wrongChar = 2 ∧ ∀ (p : EmptyPolicy) (f : Format) (cs : List Word), encodeSymbol p f cs = .error .wrongChar ↔
    f ≠ .code11 ∧ (∃ c ∈ cs, ¬ (0x30 ≤ c.toNat ∧ c.toNat ≤ 0x39)) ∧
      (f = .ean13 → cs.length = 12 ∨ cs.length = 13) ∧ (f = .ean8 → cs.length = 7 ∨ cs.length = 8)

/-- R255, R120: WrongChecksum is code 3, and exactly when ENCODE reports it: an EAN symbol of digits with a supplied check digit that differs from
the computed one. -/
def Obligations.WrongChecksumExactlyWhen : Prop :=
  errorCode .wrongChecksum = 3 ∧ ∀ (p : EmptyPolicy) (f : Format) (cs : List Word), encodeSymbol p f cs = .error .wrongChecksum ↔
    (∀ c ∈ cs, 0x30 ≤ c.toNat ∧ c.toNat ≤ 0x39) ∧
      ((f = .ean13 ∧ cs.length = 13 ∧ dv (cs.getD 12 0) ≠ checksum ((cs.take 12).map dv)) ∨
        (f = .ean8 ∧ cs.length = 8 ∧ dv (cs.getD 7 0) ≠ checksum ((cs.take 7).map dv)))

/-- R62, R176, R250, R257: a command that ends with an error leaves OUT_LEN 0, DONE set and every BIT_OUT bit as it was.
The spec marks R176 [derived], its own inference from the rules cited. That WPTR stays is the model's choice (log entry 22,
DEDUCED). -/
def Obligations.FailedCommandWritesNoBit : Prop :=
  ∀ (i : Instr) (s t : State), exec i s = .next t → t.status.code ≠ 0 →
    t.status.busy = false ∧ t.status.done = true ∧ t.outLen = 0 ∧ t.seq = .done ∧ t.wptr = s.wptr ∧
      t.bitOut = s.bitOut ∧ ∀ j, t.outBit j = s.outBit j

/-! ## What a command leaves unchanged -/

/-- R25, R34, R56: the frame of the five commands. CMD, the latched command, every byte of CHAR_IN, the host and its answers are
unchanged by all. That the formats whose pseudocode runs no checksum (R112, R192, R212) leave ACC and CHK, that all but EAN13 leave
PAR (R36, R170) and that Code11 stages no digits (R192) is the model's choice: after a command the working registers hold what the
pseudocode leaves in them (log entry 11, DEDUCED). The spec does not say that ACC and CHK are kept across commands (R35). -/
def Obligations.CommandFrame : Prop :=
  ∀ (i : Instr) (s t : State), exec i s = .next t →
    s.SameOutside t ∧ (∀ a, t.mem.readByte a = s.mem.readByte a) ∧
      ((i.format = .code11 ∨ i.format = .standard2of5) → t.acc = s.acc ∧ t.chk = s.chk) ∧
      (i.format ≠ .ean13 → t.par = s.par) ∧ (i.format = .code11 → t.staging = s.staging)

/-- R237: two commands of the same format, length and characters give the same STATUS, OUT_LEN and output bits, whatever else
the states hold. -/
def Obligations.CommandsArePure : Prop :=
  ∀ (i : Instr) (s s' t : State), (∀ k, k < i.len.toNat → s'.mem.charIn k = s.mem.charIn k) → exec i s = .next t →
    ∃ t', exec i s' = .next t' ∧ t'.status = t.status ∧ t'.outLen = t.outLen ∧
      ∀ j, j < t.outLen.toNat → t'.outBit j = t.outBit j

/-- R62: after a success the bits at and above OUT_LEN are unspecified: the free value of a new draw (log entry 6). -/
def Obligations.TailBitsUnspecified : Prop :=
  ∀ (i : Instr) (s t : State), i.wf = true → exec i s = .next t → t.status.code = 0 →
    t.outLen.toNat = t.bitOut.length ∧ ∀ j, t.outLen.toNat ≤ j → t.outBit j = Config.freeBit s.draws j

/-! ## Results of ENCODE -/

/-- R172: the 12-digit and the 13-digit form of an EAN13 symbol give the same Ok result.
The spec marks R172 [derived], its own inference from the rules cited. -/
def Obligations.Ean13CheckDigitIdentity : Prop :=
  ∀ ds : List Digit, ds.length = 12 → ∃ bits, encEan13 (ds.map digitChar) = .ok bits ∧
    encEan13 (ds.map digitChar ++ [digitChar (checksum ds)]) = .ok bits

/-- R175: the 7-digit and the 8-digit form of an EAN8 symbol give the same Ok result.
The spec marks R175 [derived], its own inference from the rules cited. -/
def Obligations.Ean8CheckDigitIdentity : Prop :=
  ∀ ds : List Digit, ds.length = 7 → ∃ bits, encEan8 (ds.map digitChar) = .ok bits ∧
    encEan8 (ds.map digitChar ++ [digitChar (checksum ds)]) = .ok bits

/-- R218: an odd number of digits encodes as the same digits with their check digit appended, under both values of
I2OF5_EMPTY.
The spec marks R218 [derived], its own inference from the rules cited. -/
def Obligations.I2of5PaddingIdentity : Prop :=
  ∀ (p : EmptyPolicy) (ds : List Digit), ds.length % 2 = 1 → ∃ bits, encI2of5 p (ds.map digitChar) = .ok bits ∧
    encI2of5 p (ds.map digitChar ++ [digitChar (checksum ds)]) = .ok bits

/-- R193: the length of a Code11 symbol and its maximum.
The spec marks R193 [derived], its own inference from the rules cited. -/
def Obligations.Code11Length : Prop :=
  ∀ (cs : List Word) (bits : Bits), encCode11 cs = .ok bits →
    bits.length + cs.countP (fun c => decide (c.toNat = 0x30 ∨ c.toNat = 0x39 ∨ c.toNat = 0x2D)) =
        15 + 8 * cs.countP (fun c => decide ((0x30 ≤ c.toNat ∧ c.toNat ≤ 0x39) ∨ c.toNat = 0x2D)) ∧
      bits.length ≤ 15 + 8 * cs.length

/-- R194: a character outside the Code11 table adds nothing and raises nothing, wherever it stands. -/
def Obligations.Code11SkipsUnknown : Prop :=
  ∀ (a b : List Word) (c : Word), ¬ ((0x30 ≤ c.toNat ∧ c.toNat ≤ 0x39) ∨ c.toNat = 0x2D) →
    ∃ bits, encCode11 (a ++ c :: b) = .ok bits ∧ encCode11 (a ++ b) = .ok bits

/-- R213, R219: the lengths of 2-of-5 symbols, the empty Interleaved one under `Accept` included.
The spec marks R213 and R219 [derived], its own inference from the rules cited. -/
def Obligations.TwoOfFiveLengths : Prop :=
  (∀ ds : List Digit, ∃ bits, encS2of5 (ds.map digitChar) = .ok bits ∧ bits.length = 15 + 14 * ds.length) ∧
    (∀ (p : EmptyPolicy) (ds : List Digit), 1 ≤ ds.length ∨ p = .accept →
      ∃ bits, encI2of5 p (ds.map digitChar) = .ok bits ∧ bits.length = 8 + 14 * ((ds.length + 1) / 2)) ∧
    encI2of5 .accept [] = .ok (pattern 8 0b10101101)

/-- R236, R61: every Ok output of n characters has at most 15 + 14n bits, so no legal command's output exceeds MAX_BITS.
The spec marks R61 and R236 [derived], its own inference from the rules cited. -/
def Obligations.OutputLengthBound : Prop :=
  ∀ (p : EmptyPolicy) (f : Format) (cs : List Word) (bits : Bits), encodeSymbol p f cs = .ok bits →
    bits.length ≤ 15 + 14 * cs.length ∧ (cs.length ≤ Config.maxChars → bits.length ≤ Config.maxBits)

/-! ## Steps -/

/-- R234: with SEQ = RUN and no host turn left, a step is the meaning of the decoded command; with host turns left, or with no
command running, it is the host's turn. -/
def Obligations.StepRunsDecodedCommand : Prop :=
  (∀ (s : State) (i : Instr), s.seq = .run → s.delay = 0 → decode s.latched = .ok i → step s = exec i s) ∧
    (∀ (s : State) (k : Nat), s.seq = .run → s.delay = k + 1 → step s = hostTurn { s with delay := k }) ∧
    ∀ s : State, s.seq ≠ .run → step s = hostTurn s

/-- R234, R238, R289: every command completes: with the characters of a legal command written and a host that is quiet or makes only
harmless accesses in the remaining delay, after that delay and one step SEQ is DONE. A reset instead abandons the command (R281),
and an access that faults ends the run. The delay is the model's count of LATENCY (log entry 3). -/
def Obligations.EveryCommandCompletes : Prop :=
  ∀ s : State, s.seq = .run → (∀ op ∈ s.host.take s.delay, s.HarmlessOp op) →
    (legal s.latched = true → ∃ cs : List Word, cs.length = s.lenL.toNat ∧ s.Holds cs) →
    ∃ t, core.run (s.delay + 1) s = .next t ∧ t.seq = .done ∧ t.status.busy = false ∧ t.status.done = true

/-- R93, R286: POLL returns: polling while a command runs reads BUSY until the command completes, then DONE once, and the next
statement of the host is reached. The number of BUSY answers is the model's delay (log entry 3). -/
def Obligations.PollReturns : Prop :=
  ∀ (s : State) (rest : List HostOp), s.Inv → s.seq = .run → s.host = .poll :: rest →
    (legal s.latched = true → ∃ cs : List Word, cs.length = s.lenL.toNat ∧ s.Holds cs) →
    ∃ t, core.run (s.delay + 2) s = .next t ∧ t.seq = .done ∧ t.host = rest ∧
      t.answers = s.answers ++ List.replicate s.delay 1 ++ [t.status.toWord]

/-- R93, R95: WRS stores its characters in CHAR_IN[0], CHAR_IN[1] and so on, and nothing else changes. -/
def Obligations.WriteStringStoresCharacters : Prop :=
  ∀ (s : State) (cs : List Word) (rest : List HostOp), s.seq ≠ .run → cs.length ≤ Config.maxChars →
    s.host = stmtWRS cs ++ rest →
    ∃ t, core.run cs.length s = .next t ∧ t.Holds cs ∧ (∀ j, cs.length ≤ j → t.mem.charIn j = s.mem.charIn j) ∧
      t = { s with mem := t.mem, host := rest }

/-- R70, R264: a step of one instance changes no other, and depends on no other. -/
def Obligations.InstancesAreIndependent : Prop :=
  (∀ (p q : List State) (k j : Nat), platformStep p k = .next q → j ≠ k → q[j]? = p[j]?) ∧
    ∀ (p p' q : List State) (k : Nat), p[k]? = p'[k]? → platformStep p k = .next q →
      ∃ q', platformStep p' k = .next q' ∧ q'[k]? = q[k]?

/-- R50, R70, R264: each instance has its own window: no bus address lies in two, every window is aligned, and an access at an address of
instance `k`'s window reaches that instance, at its byte offset there, and no other. That windows are numbered by rising BASE is
the model's choice (log entry 4). -/
def Obligations.WindowsAreDisjoint : Prop :=
  (∀ k, Config.base k % 2 ^ 20 = 0) ∧ (∀ j k addr : Nat, inWindow j addr = true → inWindow k addr = true → j = k) ∧
    ∀ (p : List State) (k addr : Nat) (op : Nat → HostOp), inWindow k addr = true → addr - Config.base k < 2 ^ 20 ∧
      (busAccess p addr op)[k]? = p[k]?.map (fun s => { s with host := s.host ++ [op (addr - Config.base k)] }) ∧
      ∀ j, j ≠ k → (busAccess p addr op)[j]? = p[j]?
end

