-- ==== Sys2Proof/Laws/Memory.lean ====
section
/-! SUPPORT. The laws of buffer memory: a read after a write, the canonical form, words and CHAR_IN entries. -/

namespace Sys2Proof.Machine

/-! ## Bytes -/

theorem Memory.readByte_writeByte_self (m : Memory) (a : Nat) (v : Byte) :
    (m.writeByte a v).readByte a = some v := by
  induction m with
  | nil => simp [Memory.writeByte, Memory.readByte]
  | cons x rest ih =>
    obtain ⟨b, w⟩ := x
    simp only [Memory.writeByte]
    split
    · simp [Memory.readByte]
    · split
      · simp [Memory.readByte]
      · simp [Memory.readByte, *]

theorem Memory.readByte_writeByte_other (m : Memory) {a b : Nat} (v : Byte) (h : b ≠ a) :
    (m.writeByte a v).readByte b = m.readByte b := by
  induction m with
  | nil => simp [Memory.writeByte, Memory.readByte, h]
  | cons x rest ih =>
    obtain ⟨c, w⟩ := x
    simp only [Memory.writeByte]
    split
    · simp [Memory.readByte, h]
    · split
      · rename_i hac
        simp [Memory.readByte, ← hac, h]
      · simp [Memory.readByte, ih]

/-- What one byte write does to every read. -/
theorem Memory.readByte_writeByte (m : Memory) (a b : Nat) (v : Byte) :
    (m.writeByte a v).readByte b = if b = a then some v else m.readByte b := by
  split
  · rename_i h
    rw [h, Memory.readByte_writeByte_self]
  · rename_i h
    exact Memory.readByte_writeByte_other m v h

/-! ## The canonical form -/

/-- In a canonical memory that starts at `b`, the tail is canonical and starts above `b`. -/
theorem Memory.wf_cons_iff (b : Nat) (w : Byte) (m : Memory) :
    Memory.wf ((b, w) :: m) = true ↔ (∀ x ∈ m.head?, b < x.1) ∧ m.wf = true := by
  cases m with
  | nil => simp [Memory.wf]
  | cons y rest => simp [Memory.wf]

/-- The first offset after a byte write is the written one or the one before. -/
theorem Memory.head_writeByte (m : Memory) (a : Nat) (v : Byte) :
    ∀ x ∈ (m.writeByte a v).head?, x.1 = a ∨ ∃ y ∈ m.head?, x.1 = y.1 := by
  cases m with
  | nil => simp [Memory.writeByte]
  | cons y rest =>
    simp only [Memory.writeByte]
    split
    · simp
    · split <;> simp_all

theorem Memory.writeByte_wf (m : Memory) (a : Nat) (v : Byte) (h : m.wf = true) : (m.writeByte a v).wf = true := by
  induction m with
  | nil => simp [Memory.writeByte, Memory.wf]
  | cons x rest ih =>
    obtain ⟨b, w⟩ := x
    have hx := (Memory.wf_cons_iff b w rest).1 h
    simp only [Memory.writeByte]
    split
    · rename_i hab
      exact (Memory.wf_cons_iff a v _).2 ⟨by simpa using hab, h⟩
    · split
      · rename_i hab
        exact (Memory.wf_cons_iff a v rest).2 ⟨by simpa [hab] using hx.1, hx.2⟩
      · refine (Memory.wf_cons_iff b w _).2 ⟨fun x hm => ?_, ih hx.2⟩
        obtain h1 | ⟨y, hy, h1⟩ := Memory.head_writeByte rest a v x hm
        · omega
        · exact h1 ▸ hx.1 y hy

theorem Memory.writeWord_wf (m : Memory) (a : Nat) (v : Word) (h : m.wf = true) : (m.writeWord a v).wf = true := by
  simp only [Memory.writeWord]
  exact Memory.writeByte_wf _ _ _ (Memory.writeByte_wf _ _ _ (Memory.writeByte_wf _ _ _ (Memory.writeByte_wf _ _ _ h)))

/-- Storing a character keeps the canonical form. -/
theorem Memory.setCharIn_wf (m : Memory) (i : Nat) (v : Word) (h : m.wf = true) : (m.setCharIn i v).wf = true :=
  Memory.writeWord_wf m _ v h

/-- Reset memory has the canonical form. -/
theorem State.reset_mem_wf : State.reset.mem.wf = true := rfl

/-! ## Words -/

/-- A word is its four byte lanes (R63). -/
theorem wordOfBytes_byteOfWord (v : Word) :
    wordOfBytes (byteOfWord v 0) (byteOfWord v 1) (byteOfWord v 2) (byteOfWord v 3) = v := by
  apply BitVec.eq_of_getLsbD_eq
  intro k hk
  simp only [wordOfBytes, byteOfWord, BitVec.getLsbD_append, BitVec.getLsbD_extractLsb']
  by_cases h0 : k < 8
  · simp [h0]
  · by_cases h1 : k - 8 < 8
    · simp [h0, h1]; congr 1; omega
    · by_cases h2 : k - 8 - 8 < 8
      · simp [h0, h1, h2]; congr 1; omega
      · have h3 : k - 8 - 8 - 8 < 8 := by omega
        simp [h0, h1, h2, h3]; congr 1; omega

/-- What one word write does to every byte: exactly the four bytes at `a` to `a + 3` change. -/
theorem Memory.readByte_writeWord (m : Memory) (a b : Nat) (v : Word) :
    (m.writeWord a v).readByte b =
      if a ≤ b ∧ b < a + 4 then some (byteOfWord v (b - a)) else m.readByte b := by
  simp only [Memory.writeWord, Memory.readByte_writeByte]
  by_cases h3 : b = a + 3
  · simp [h3]
  by_cases h2 : b = a + 2
  · simp [h2]
  by_cases h1 : b = a + 1
  · simp [h1]
  by_cases h0 : b = a
  · simp [h0]
  · rw [if_neg h3, if_neg h2, if_neg h1, if_neg h0, if_neg (by omega)]

theorem Memory.readWord_writeWord_self (m : Memory) (a : Nat) (v : Word) : (m.writeWord a v).readWord a = some v := by
  simp [Memory.readWord, Memory.readByte_writeWord, wordOfBytes_byteOfWord]

theorem Memory.readWord_writeWord_other (m : Memory) {a b : Nat} (v : Word) (h : b + 4 ≤ a ∨ a + 4 ≤ b) :
    (m.writeWord a v).readWord b = m.readWord b := by
  have hb : ∀ k, k < 4 → (m.writeWord a v).readByte (b + k) = m.readByte (b + k) := by
    intro k hk
    rw [Memory.readByte_writeWord, if_neg (by omega)]
  have h0 := hb 0 (by omega)
  simp only [Nat.add_zero] at h0
  simp only [Memory.readWord, h0, hb 1 (by omega), hb 2 (by omega), hb 3 (by omega)]

/-! ## CHAR_IN -/

/-- Storing a character changes its own entry and no other (R54). -/
theorem Memory.charIn_setCharIn (m : Memory) (i j : Nat) (v : Word) :
    (m.setCharIn i v).charIn j = if j = i then some v else m.charIn j := by
  simp only [Memory.charIn, Memory.setCharIn]
  split
  · rename_i h
    rw [h, Memory.readWord_writeWord_self]
  · rename_i h
    exact Memory.readWord_writeWord_other m v (by simp only [charInOffset]; omega)

/-- Storing a character changes only the bytes of its entry. -/
theorem Memory.readByte_setCharIn (m : Memory) (i a : Nat) (v : Word) :
    (m.setCharIn i v).readByte a =
      if charInOffset i ≤ a ∧ a < charInOffset i + 4 then some (byteOfWord v (a - charInOffset i)) else m.readByte a :=
  Memory.readByte_writeWord m _ a v

/-! ## The operand read -/

/-- The operand read succeeds exactly when every entry is written, and gives the entries in order (R55). -/
theorem readChars_ok_iff (m : Memory) (i n : Nat) (cs : List Word) :
    readChars m i n = .ok cs ↔ cs.length = n ∧ ∀ j, (h : j < cs.length) → m.charIn (i + j) = some cs[j] := by
  induction n generalizing i cs with
  | zero => cases cs <;> simp [readChars]
  | succ n ih =>
    simp only [readChars]
    cases hc : m.charIn i with
    | none =>
      simp only [reduceCtorEq, false_iff, not_and]
      intro hl h
      have := h 0 (by omega)
      simp [hc] at this
    | some c =>
      cases hr : readChars m (i + 1) n with
      | error k =>
        simp only [reduceCtorEq, false_iff, not_and]
        intro hl h
        cases cs with
        | nil => simp at hl
        | cons d ds =>
          have := (ih (i + 1) ds).2 ⟨by simpa using hl, fun j hj => by
            have := h (j + 1) (by simpa using hj)
            simpa [Nat.add_assoc, Nat.add_comm 1] using this⟩
          simp [hr] at this
      | ok ds =>
        have hd := (ih (i + 1) ds).1 hr
        simp only [Except.ok.injEq]
        constructor
        · rintro rfl
          refine ⟨by simp [hd.1], fun j hj => ?_⟩
          cases j with
          | zero => simpa using hc
          | succ j =>
            have := hd.2 j (by simpa using hj)
            simpa [Nat.add_assoc, Nat.add_comm 1] using this
        · rintro ⟨hl, h⟩
          cases cs with
          | nil => simp at hl
          | cons e es =>
            have he := h 0 (by simp)
            simp only [Nat.add_zero, hc, Option.some.injEq, List.getElem_cons_zero] at he
            have := (ih (i + 1) es).2 ⟨by simpa using hl, fun j hj => by
              have := h (j + 1) (by simpa using hj)
              simpa [Nat.add_assoc, Nat.add_comm 1] using this⟩
            rw [hr] at this
            simp_all

/-- The operand read fails exactly at the first entry not written (R55). -/
theorem readChars_error_iff (m : Memory) (i n k : Nat) :
    readChars m i n = .error k ↔
      i ≤ k ∧ k < i + n ∧ m.charIn k = none ∧ ∀ j, i ≤ j → j < k → (m.charIn j).isSome = true := by
  induction n generalizing i with
  | zero => simp [readChars]; omega
  | succ n ih =>
    simp only [readChars]
    cases hc : m.charIn i with
    | none =>
      simp only [Except.error.injEq]
      constructor
      · rintro rfl
        exact ⟨by omega, by omega, hc, fun j h1 h2 => by omega⟩
      · rintro ⟨h1, h2, h3, h4⟩
        by_contra hne
        have := h4 i (by omega) (by omega)
        simp [hc] at this
    | some c =>
      have key : (readChars m (i + 1) n = .error k) ↔ (i ≤ k ∧ k < i + (n + 1) ∧ m.charIn k = none ∧
          ∀ j, i ≤ j → j < k → (m.charIn j).isSome = true) := by
        rw [ih (i + 1)]
        constructor
        · rintro ⟨h1, h2, h3, h4⟩
          refine ⟨by omega, by omega, h3, fun j hj1 hj2 => ?_⟩
          by_cases hji : j = i
          · simp [hji, hc]
          · exact h4 j (by omega) hj2
        · rintro ⟨h1, h2, h3, h4⟩
          have hki : k ≠ i := by
            rintro rfl
            simp [hc] at h3
          exact ⟨by omega, by omega, h3, fun j hj1 hj2 => h4 j (by omega) hj2⟩
      rw [← key]
      cases readChars m (i + 1) n <;> simp

/-- Everything the operand fetch of a command can do: run on the characters it holds, or stop at the first entry not
written. -/
theorem withChars_cases (len : BitVec 16) (s : State) (body : List Word → State) :
    (∃ cs, readChars s.mem 0 len.toNat = .ok cs ∧ withChars len s body = .next (body cs)) ∨
      (∃ k, readChars s.mem 0 len.toNat = .error k ∧ withChars len s body = .fault (.unwrittenInput k)) := by
  simp only [withChars]
  cases h : readChars s.mem 0 len.toNat with
  | ok cs => exact .inl ⟨cs, rfl, rfl⟩
  | error k => exact .inr ⟨k, rfl, rfl⟩

end Sys2Proof.Machine
end

