-- ==== Sys2Proof/Laws/State.lean ====
section
/-! SUPPORT. One lemma per field per named update of State, each true by definition. -/

namespace Sys2Proof.Machine

variable (s : State)

/-! State.append -/

@[simp] theorem State.append_cmd (p : Bits) : (s.append p).cmd = s.cmd := rfl
@[simp] theorem State.append_status (p : Bits) : (s.append p).status = s.status := rfl
@[simp] theorem State.append_outLen (p : Bits) : (s.append p).outLen = s.outLen := rfl
@[simp] theorem State.append_seq (p : Bits) : (s.append p).seq = s.seq := rfl
@[simp] theorem State.append_fmtL (p : Bits) : (s.append p).fmtL = s.fmtL := rfl
@[simp] theorem State.append_rsvL (p : Bits) : (s.append p).rsvL = s.rsvL := rfl
@[simp] theorem State.append_lenL (p : Bits) : (s.append p).lenL = s.lenL := rfl
@[simp] theorem State.append_acc (p : Bits) : (s.append p).acc = s.acc := rfl
@[simp] theorem State.append_chk (p : Bits) : (s.append p).chk = s.chk := rfl
@[simp] theorem State.append_par (p : Bits) : (s.append p).par = s.par := rfl
@[simp] theorem State.append_wptr (p : Bits) : (s.append p).wptr = s.wptr + p.length := rfl
@[simp] theorem State.append_staging (p : Bits) : (s.append p).staging = s.staging := rfl
@[simp] theorem State.append_mem (p : Bits) : (s.append p).mem = s.mem := rfl
@[simp] theorem State.append_bitOut (p : Bits) : (s.append p).bitOut = s.bitOut.take s.wptr ++ p := rfl
@[simp] theorem State.append_host (p : Bits) : (s.append p).host = s.host := rfl
@[simp] theorem State.append_answers (p : Bits) : (s.append p).answers = s.answers := rfl
@[simp] theorem State.append_delay (p : Bits) : (s.append p).delay = s.delay := rfl
@[simp] theorem State.append_outDraw (p : Bits) : (s.append p).outDraw = s.outDraw := rfl
@[simp] theorem State.append_draws (p : Bits) : (s.append p).draws = s.draws := rfl

/-! State.startGeneration -/

@[simp] theorem State.startGeneration_cmd : s.startGeneration.cmd = s.cmd := rfl
@[simp] theorem State.startGeneration_status : s.startGeneration.status = s.status := rfl
@[simp] theorem State.startGeneration_outLen : s.startGeneration.outLen = s.outLen := rfl
@[simp] theorem State.startGeneration_seq : s.startGeneration.seq = s.seq := rfl
@[simp] theorem State.startGeneration_fmtL : s.startGeneration.fmtL = s.fmtL := rfl
@[simp] theorem State.startGeneration_rsvL : s.startGeneration.rsvL = s.rsvL := rfl
@[simp] theorem State.startGeneration_lenL : s.startGeneration.lenL = s.lenL := rfl
@[simp] theorem State.startGeneration_acc : s.startGeneration.acc = s.acc := rfl
@[simp] theorem State.startGeneration_chk : s.startGeneration.chk = s.chk := rfl
@[simp] theorem State.startGeneration_par : s.startGeneration.par = s.par := rfl
@[simp] theorem State.startGeneration_wptr : s.startGeneration.wptr = 0 := rfl
@[simp] theorem State.startGeneration_staging : s.startGeneration.staging = s.staging := rfl
@[simp] theorem State.startGeneration_mem : s.startGeneration.mem = s.mem := rfl
@[simp] theorem State.startGeneration_bitOut : s.startGeneration.bitOut = [] := rfl
@[simp] theorem State.startGeneration_host : s.startGeneration.host = s.host := rfl
@[simp] theorem State.startGeneration_answers : s.startGeneration.answers = s.answers := rfl
@[simp] theorem State.startGeneration_delay : s.startGeneration.delay = s.delay := rfl
@[simp] theorem State.startGeneration_outDraw : s.startGeneration.outDraw = s.draws := rfl
@[simp] theorem State.startGeneration_draws : s.startGeneration.draws = s.draws + 1 := rfl

/-! State.stage -/

@[simp] theorem State.stage_cmd (ds : List Digit) : (s.stage ds).cmd = s.cmd := rfl
@[simp] theorem State.stage_status (ds : List Digit) : (s.stage ds).status = s.status := rfl
@[simp] theorem State.stage_outLen (ds : List Digit) : (s.stage ds).outLen = s.outLen := rfl
@[simp] theorem State.stage_seq (ds : List Digit) : (s.stage ds).seq = s.seq := rfl
@[simp] theorem State.stage_fmtL (ds : List Digit) : (s.stage ds).fmtL = s.fmtL := rfl
@[simp] theorem State.stage_rsvL (ds : List Digit) : (s.stage ds).rsvL = s.rsvL := rfl
@[simp] theorem State.stage_lenL (ds : List Digit) : (s.stage ds).lenL = s.lenL := rfl
@[simp] theorem State.stage_acc (ds : List Digit) : (s.stage ds).acc = s.acc := rfl
@[simp] theorem State.stage_chk (ds : List Digit) : (s.stage ds).chk = s.chk := rfl
@[simp] theorem State.stage_par (ds : List Digit) : (s.stage ds).par = s.par := rfl
@[simp] theorem State.stage_wptr (ds : List Digit) : (s.stage ds).wptr = s.wptr := rfl
@[simp] theorem State.stage_staging (ds : List Digit) : (s.stage ds).staging = ds := rfl
@[simp] theorem State.stage_mem (ds : List Digit) : (s.stage ds).mem = s.mem := rfl
@[simp] theorem State.stage_bitOut (ds : List Digit) : (s.stage ds).bitOut = s.bitOut := rfl
@[simp] theorem State.stage_host (ds : List Digit) : (s.stage ds).host = s.host := rfl
@[simp] theorem State.stage_answers (ds : List Digit) : (s.stage ds).answers = s.answers := rfl
@[simp] theorem State.stage_delay (ds : List Digit) : (s.stage ds).delay = s.delay := rfl
@[simp] theorem State.stage_outDraw (ds : List Digit) : (s.stage ds).outDraw = s.outDraw := rfl
@[simp] theorem State.stage_draws (ds : List Digit) : (s.stage ds).draws = s.draws := rfl

/-! State.loadParity -/

@[simp] theorem State.loadParity_cmd (r : Row ParityChoice) : (s.loadParity r).cmd = s.cmd := rfl
@[simp] theorem State.loadParity_status (r : Row ParityChoice) : (s.loadParity r).status = s.status := rfl
@[simp] theorem State.loadParity_outLen (r : Row ParityChoice) : (s.loadParity r).outLen = s.outLen := rfl
@[simp] theorem State.loadParity_seq (r : Row ParityChoice) : (s.loadParity r).seq = s.seq := rfl
@[simp] theorem State.loadParity_fmtL (r : Row ParityChoice) : (s.loadParity r).fmtL = s.fmtL := rfl
@[simp] theorem State.loadParity_rsvL (r : Row ParityChoice) : (s.loadParity r).rsvL = s.rsvL := rfl
@[simp] theorem State.loadParity_lenL (r : Row ParityChoice) : (s.loadParity r).lenL = s.lenL := rfl
@[simp] theorem State.loadParity_acc (r : Row ParityChoice) : (s.loadParity r).acc = s.acc := rfl
@[simp] theorem State.loadParity_chk (r : Row ParityChoice) : (s.loadParity r).chk = s.chk := rfl
@[simp] theorem State.loadParity_par (r : Row ParityChoice) : (s.loadParity r).par = r := rfl
@[simp] theorem State.loadParity_wptr (r : Row ParityChoice) : (s.loadParity r).wptr = s.wptr := rfl
@[simp] theorem State.loadParity_staging (r : Row ParityChoice) : (s.loadParity r).staging = s.staging := rfl
@[simp] theorem State.loadParity_mem (r : Row ParityChoice) : (s.loadParity r).mem = s.mem := rfl
@[simp] theorem State.loadParity_bitOut (r : Row ParityChoice) : (s.loadParity r).bitOut = s.bitOut := rfl
@[simp] theorem State.loadParity_host (r : Row ParityChoice) : (s.loadParity r).host = s.host := rfl
@[simp] theorem State.loadParity_answers (r : Row ParityChoice) : (s.loadParity r).answers = s.answers := rfl
@[simp] theorem State.loadParity_delay (r : Row ParityChoice) : (s.loadParity r).delay = s.delay := rfl
@[simp] theorem State.loadParity_outDraw (r : Row ParityChoice) : (s.loadParity r).outDraw = s.outDraw := rfl
@[simp] theorem State.loadParity_draws (r : Row ParityChoice) : (s.loadParity r).draws = s.draws := rfl

/-! State.runChecksum -/

@[simp] theorem State.runChecksum_cmd (ds : List Digit) : (s.runChecksum ds).cmd = s.cmd := rfl
@[simp] theorem State.runChecksum_status (ds : List Digit) : (s.runChecksum ds).status = s.status := rfl
@[simp] theorem State.runChecksum_outLen (ds : List Digit) : (s.runChecksum ds).outLen = s.outLen := rfl
@[simp] theorem State.runChecksum_seq (ds : List Digit) : (s.runChecksum ds).seq = s.seq := rfl
@[simp] theorem State.runChecksum_fmtL (ds : List Digit) : (s.runChecksum ds).fmtL = s.fmtL := rfl
@[simp] theorem State.runChecksum_rsvL (ds : List Digit) : (s.runChecksum ds).rsvL = s.rsvL := rfl
@[simp] theorem State.runChecksum_lenL (ds : List Digit) : (s.runChecksum ds).lenL = s.lenL := rfl
@[simp] theorem State.runChecksum_acc (ds : List Digit) : (s.runChecksum ds).acc = accRun 0 ds.reverse 0 := rfl
@[simp] theorem State.runChecksum_chk (ds : List Digit) : (s.runChecksum ds).chk = checkOf (accRun 0 ds.reverse 0) := rfl
@[simp] theorem State.runChecksum_par (ds : List Digit) : (s.runChecksum ds).par = s.par := rfl
@[simp] theorem State.runChecksum_wptr (ds : List Digit) : (s.runChecksum ds).wptr = s.wptr := rfl
@[simp] theorem State.runChecksum_staging (ds : List Digit) : (s.runChecksum ds).staging = s.staging := rfl
@[simp] theorem State.runChecksum_mem (ds : List Digit) : (s.runChecksum ds).mem = s.mem := rfl
@[simp] theorem State.runChecksum_bitOut (ds : List Digit) : (s.runChecksum ds).bitOut = s.bitOut := rfl
@[simp] theorem State.runChecksum_host (ds : List Digit) : (s.runChecksum ds).host = s.host := rfl
@[simp] theorem State.runChecksum_answers (ds : List Digit) : (s.runChecksum ds).answers = s.answers := rfl
@[simp] theorem State.runChecksum_delay (ds : List Digit) : (s.runChecksum ds).delay = s.delay := rfl
@[simp] theorem State.runChecksum_outDraw (ds : List Digit) : (s.runChecksum ds).outDraw = s.outDraw := rfl
@[simp] theorem State.runChecksum_draws (ds : List Digit) : (s.runChecksum ds).draws = s.draws := rfl

/-! State.latch -/

@[simp] theorem State.latch_cmd (v : Word) (k : Nat) : (s.latch v k).cmd = v := rfl
@[simp] theorem State.latch_status (v : Word) (k : Nat) : (s.latch v k).status = statusStarted := rfl
@[simp] theorem State.latch_outLen (v : Word) (k : Nat) : (s.latch v k).outLen = 0 := rfl
@[simp] theorem State.latch_seq (v : Word) (k : Nat) : (s.latch v k).seq = .run := rfl
@[simp] theorem State.latch_fmtL (v : Word) (k : Nat) : (s.latch v k).fmtL = fmtField v := rfl
@[simp] theorem State.latch_rsvL (v : Word) (k : Nat) : (s.latch v k).rsvL = rsvField v := rfl
@[simp] theorem State.latch_lenL (v : Word) (k : Nat) : (s.latch v k).lenL = lenField v := rfl
@[simp] theorem State.latch_acc (v : Word) (k : Nat) : (s.latch v k).acc = s.acc := rfl
@[simp] theorem State.latch_chk (v : Word) (k : Nat) : (s.latch v k).chk = s.chk := rfl
@[simp] theorem State.latch_par (v : Word) (k : Nat) : (s.latch v k).par = s.par := rfl
@[simp] theorem State.latch_wptr (v : Word) (k : Nat) : (s.latch v k).wptr = s.wptr := rfl
@[simp] theorem State.latch_staging (v : Word) (k : Nat) : (s.latch v k).staging = s.staging := rfl
@[simp] theorem State.latch_mem (v : Word) (k : Nat) : (s.latch v k).mem = s.mem := rfl
@[simp] theorem State.latch_bitOut (v : Word) (k : Nat) : (s.latch v k).bitOut = s.bitOut := rfl
@[simp] theorem State.latch_host (v : Word) (k : Nat) : (s.latch v k).host = s.host := rfl
@[simp] theorem State.latch_answers (v : Word) (k : Nat) : (s.latch v k).answers = s.answers := rfl
@[simp] theorem State.latch_delay (v : Word) (k : Nat) : (s.latch v k).delay = k := rfl
@[simp] theorem State.latch_outDraw (v : Word) (k : Nat) : (s.latch v k).outDraw = s.outDraw := rfl
@[simp] theorem State.latch_draws (v : Word) (k : Nat) : (s.latch v k).draws = s.draws := rfl

/-! State.startCommand -/

@[simp] theorem State.startCommand_cmd (v : Word) : (s.startCommand v).cmd = v := rfl
@[simp] theorem State.startCommand_status (v : Word) : (s.startCommand v).status = statusStarted := rfl
@[simp] theorem State.startCommand_outLen (v : Word) : (s.startCommand v).outLen = 0 := rfl
@[simp] theorem State.startCommand_seq (v : Word) : (s.startCommand v).seq = .run := rfl
@[simp] theorem State.startCommand_fmtL (v : Word) : (s.startCommand v).fmtL = fmtField v := rfl
@[simp] theorem State.startCommand_rsvL (v : Word) : (s.startCommand v).rsvL = rsvField v := rfl
@[simp] theorem State.startCommand_lenL (v : Word) : (s.startCommand v).lenL = lenField v := rfl
@[simp] theorem State.startCommand_acc (v : Word) : (s.startCommand v).acc = s.acc := rfl
@[simp] theorem State.startCommand_chk (v : Word) : (s.startCommand v).chk = s.chk := rfl
@[simp] theorem State.startCommand_par (v : Word) : (s.startCommand v).par = s.par := rfl
@[simp] theorem State.startCommand_wptr (v : Word) : (s.startCommand v).wptr = s.wptr := rfl
@[simp] theorem State.startCommand_staging (v : Word) : (s.startCommand v).staging = s.staging := rfl
@[simp] theorem State.startCommand_mem (v : Word) : (s.startCommand v).mem = s.mem := rfl
@[simp] theorem State.startCommand_bitOut (v : Word) : (s.startCommand v).bitOut = s.bitOut := rfl
@[simp] theorem State.startCommand_host (v : Word) : (s.startCommand v).host = s.host := rfl
@[simp] theorem State.startCommand_answers (v : Word) : (s.startCommand v).answers = s.answers := rfl
@[simp] theorem State.startCommand_delay (v : Word) : (s.startCommand v).delay = commandDelay s.draws v := rfl
@[simp] theorem State.startCommand_outDraw (v : Word) : (s.startCommand v).outDraw = s.outDraw := rfl
@[simp] theorem State.startCommand_draws (v : Word) : (s.startCommand v).draws = s.draws + 1 := rfl

/-! State.complete -/

@[simp] theorem State.complete_cmd (c : Completion) : (s.complete c).cmd = s.cmd := rfl
@[simp] theorem State.complete_status (c : Completion) : (s.complete c).status = statusCompleted c := rfl
@[simp] theorem State.complete_outLen (c : Completion) : (s.complete c).outLen = completionLength c s.wptr := rfl
@[simp] theorem State.complete_seq (c : Completion) : (s.complete c).seq = .done := rfl
@[simp] theorem State.complete_fmtL (c : Completion) : (s.complete c).fmtL = s.fmtL := rfl
@[simp] theorem State.complete_rsvL (c : Completion) : (s.complete c).rsvL = s.rsvL := rfl
@[simp] theorem State.complete_lenL (c : Completion) : (s.complete c).lenL = s.lenL := rfl
@[simp] theorem State.complete_acc (c : Completion) : (s.complete c).acc = s.acc := rfl
@[simp] theorem State.complete_chk (c : Completion) : (s.complete c).chk = s.chk := rfl
@[simp] theorem State.complete_par (c : Completion) : (s.complete c).par = s.par := rfl
@[simp] theorem State.complete_wptr (c : Completion) : (s.complete c).wptr = s.wptr := rfl
@[simp] theorem State.complete_staging (c : Completion) : (s.complete c).staging = s.staging := rfl
@[simp] theorem State.complete_mem (c : Completion) : (s.complete c).mem = s.mem := rfl
@[simp] theorem State.complete_bitOut (c : Completion) : (s.complete c).bitOut = s.bitOut := rfl
@[simp] theorem State.complete_host (c : Completion) : (s.complete c).host = s.host := rfl
@[simp] theorem State.complete_answers (c : Completion) : (s.complete c).answers = s.answers := rfl
@[simp] theorem State.complete_delay (c : Completion) : (s.complete c).delay = s.delay := rfl
@[simp] theorem State.complete_outDraw (c : Completion) : (s.complete c).outDraw = s.outDraw := rfl
@[simp] theorem State.complete_draws (c : Completion) : (s.complete c).draws = s.draws := rfl

/-! State.answer -/

@[simp] theorem State.answer_cmd (v : Word) : (s.answer v).cmd = s.cmd := rfl
@[simp] theorem State.answer_status (v : Word) : (s.answer v).status = s.status := rfl
@[simp] theorem State.answer_outLen (v : Word) : (s.answer v).outLen = s.outLen := rfl
@[simp] theorem State.answer_seq (v : Word) : (s.answer v).seq = s.seq := rfl
@[simp] theorem State.answer_fmtL (v : Word) : (s.answer v).fmtL = s.fmtL := rfl
@[simp] theorem State.answer_rsvL (v : Word) : (s.answer v).rsvL = s.rsvL := rfl
@[simp] theorem State.answer_lenL (v : Word) : (s.answer v).lenL = s.lenL := rfl
@[simp] theorem State.answer_acc (v : Word) : (s.answer v).acc = s.acc := rfl
@[simp] theorem State.answer_chk (v : Word) : (s.answer v).chk = s.chk := rfl
@[simp] theorem State.answer_par (v : Word) : (s.answer v).par = s.par := rfl
@[simp] theorem State.answer_wptr (v : Word) : (s.answer v).wptr = s.wptr := rfl
@[simp] theorem State.answer_staging (v : Word) : (s.answer v).staging = s.staging := rfl
@[simp] theorem State.answer_mem (v : Word) : (s.answer v).mem = s.mem := rfl
@[simp] theorem State.answer_bitOut (v : Word) : (s.answer v).bitOut = s.bitOut := rfl
@[simp] theorem State.answer_host (v : Word) : (s.answer v).host = s.host := rfl
@[simp] theorem State.answer_answers (v : Word) : (s.answer v).answers = s.answers ++ [v] := rfl
@[simp] theorem State.answer_delay (v : Word) : (s.answer v).delay = s.delay := rfl
@[simp] theorem State.answer_outDraw (v : Word) : (s.answer v).outDraw = s.outDraw := rfl
@[simp] theorem State.answer_draws (v : Word) : (s.answer v).draws = s.draws := rfl

/-! State.answerFree -/

@[simp] theorem State.answerFree_cmd : s.answerFree.cmd = s.cmd := rfl
@[simp] theorem State.answerFree_status : s.answerFree.status = s.status := rfl
@[simp] theorem State.answerFree_outLen : s.answerFree.outLen = s.outLen := rfl
@[simp] theorem State.answerFree_seq : s.answerFree.seq = s.seq := rfl
@[simp] theorem State.answerFree_fmtL : s.answerFree.fmtL = s.fmtL := rfl
@[simp] theorem State.answerFree_rsvL : s.answerFree.rsvL = s.rsvL := rfl
@[simp] theorem State.answerFree_lenL : s.answerFree.lenL = s.lenL := rfl
@[simp] theorem State.answerFree_acc : s.answerFree.acc = s.acc := rfl
@[simp] theorem State.answerFree_chk : s.answerFree.chk = s.chk := rfl
@[simp] theorem State.answerFree_par : s.answerFree.par = s.par := rfl
@[simp] theorem State.answerFree_wptr : s.answerFree.wptr = s.wptr := rfl
@[simp] theorem State.answerFree_staging : s.answerFree.staging = s.staging := rfl
@[simp] theorem State.answerFree_mem : s.answerFree.mem = s.mem := rfl
@[simp] theorem State.answerFree_bitOut : s.answerFree.bitOut = s.bitOut := rfl
@[simp] theorem State.answerFree_host : s.answerFree.host = s.host := rfl
@[simp] theorem State.answerFree_answers : s.answerFree.answers = s.answers ++ [Config.freeWord s.draws] := rfl
@[simp] theorem State.answerFree_delay : s.answerFree.delay = s.delay := rfl
@[simp] theorem State.answerFree_outDraw : s.answerFree.outDraw = s.outDraw := rfl
@[simp] theorem State.answerFree_draws : s.answerFree.draws = s.draws + 1 := rfl

/-- `raise` is the completion with that error (R250). -/
@[simp] theorem State.raise_eq (k : EncodingError) : s.raise k = s.complete (.err k) := rfl

end Sys2Proof.Machine
end

