-- ==== Sys2Proof/Laws/Ops.lean ====
section
/-! SUPPORT. What the shared operations do: the Append calls, the generation phase, BIT_OUT words, the accumulator. -/

namespace Sys2Proof.Machine

/-- A run of Appends from a write pointer at the end of the held bits adds the concatenation and moves the pointer (R60). -/
theorem State.appendAll_eq (s : State) (ps : List Bits) (h : s.wptr = s.bitOut.length) :
    s.appendAll ps = { s with bitOut := s.bitOut ++ ps.flatten, wptr := s.wptr + ps.flatten.length } := by
  induction ps generalizing s with
  | nil => simp [State.appendAll]
  | cons p ps ih =>
    simp only [State.appendAll]
    rw [ih (s.append p) (by simp [h])]
    simp [State.append, h, Nat.add_assoc]

/-- Everything a generation phase does (R235, R27): BIT_OUT holds exactly the concatenation of the Append calls, the bits beyond
it are a new draw, and the command completes with OK and OUT_LEN the number of bits. -/
theorem State.generate_eq (s : State) (ps : List Bits) :
    s.generate ps =
      { s with status := statusCompleted .ok, outLen := BitVec.ofNat 32 ps.flatten.length, seq := .done,
               wptr := ps.flatten.length, bitOut := ps.flatten, outDraw := s.draws, draws := s.draws + 1 } := by
  simp only [State.generate]
  rw [State.appendAll_eq _ _ (by simp)]
  simp [State.complete, State.startGeneration, completionLength]

/-- Below the held bits BIT_OUT is the held bit. -/
theorem State.outBit_of_lt (s : State) (j : Nat) (h : j < s.bitOut.length) : s.outBit j = s.bitOut[j] := by
  simp [State.outBit, h]

/-- At and above the held bits BIT_OUT is unspecified. -/
theorem State.outBit_of_ge (s : State) (j : Nat) (h : s.bitOut.length ≤ j) : s.outBit j = Config.freeBit s.outDraw j := by
  simp [State.outBit, h]

theorem packNat_lt (f : Nat → Bool) (n : Nat) : packNat f n < 2 ^ n := by
  induction n with
  | zero => simp [packNat]
  | succ n ih =>
    simp only [packNat, Nat.pow_succ]
    split <;> omega

theorem testBit_packNat (f : Nat → Bool) (n k : Nat) : (packNat f n).testBit k = (decide (k < n) && f k) := by
  induction n with
  | zero => simp [packNat]
  | succ n ih =>
    simp only [packNat]
    have hlt := packNat_lt f n
    by_cases hk : k < n
    · split
      · rw [Nat.add_comm, Nat.testBit_two_pow_add_gt hk, ih]
        simp [hk, Nat.lt_succ_of_lt hk]
      · rw [Nat.add_zero, ih]
        simp [hk, Nat.lt_succ_of_lt hk]
    · by_cases hkn : k = n
      · subst hkn
        split
        · rename_i hf
          rw [Nat.add_comm, Nat.testBit_two_pow_add_eq, Nat.testBit_lt_two_pow hlt]
          simp [hf]
        · rename_i hf
          rw [Nat.add_zero, Nat.testBit_lt_two_pow hlt]
          simp [hf]
      · have hge : n + 1 ≤ k := by omega
        have hbound : packNat f n + (if f n then 2 ^ n else 0) < 2 ^ k := by
          have h1 : 2 ^ (n + 1) ≤ 2 ^ k := Nat.pow_le_pow_right (by omega) hge
          have h2 : 2 ^ (n + 1) = 2 ^ n + 2 ^ n := by rw [Nat.pow_succ]; omega
          split <;> omega
        rw [Nat.testBit_lt_two_pow hbound]
        simp [show ¬ k < n + 1 by omega]

/-- Bit `k` of BIT_OUT word `w` is output bit 32w + k (R58). -/
theorem State.getLsbD_outWord (s : State) (w k : Nat) (h : k < 32) : (s.outWord w).getLsbD k = s.outBit (32 * w + k) := by
  simp only [State.outWord, BitVec.getLsbD_ofNat, testBit_packNat, h, decide_true, Bool.true_and]

/-! ## The accumulator (R112) -/

/-- One adder step gives 0 to 9. -/
theorem accStep_le (acc : BitVec 4) (k : Nat) (d : Digit) : (accStep acc k d).toNat ≤ 9 := by
  simp only [accStep, BitVec.toNat_ofNat]
  omega

/-- The accumulator ends between 0 and 9 when it starts there. -/
theorem accRun_le (k : Nat) (ds : List Digit) (acc : BitVec 4) (h : acc.toNat ≤ 9) : (accRun k ds acc).toNat ≤ 9 := by
  induction ds generalizing k acc with
  | nil => simpa [accRun] using h
  | cons d ds ih => exact ih (k + 1) _ (accStep_le acc k d)

/-- CHK holds 0 to 9. -/
theorem checkOf_le (acc : BitVec 4) : (checkOf acc).toNat ≤ 9 := by
  simp only [checkOf, BitVec.toNat_ofNat]
  omega

end Sys2Proof.Machine
end

