-- ==== Sys2Proof/Laws/Exec.lean ====
section
/-! SUPPORT. What a command can do: the shared shape of the five meanings. -/

namespace Sys2Proof.Machine

/-- What each command does once its characters are read. -/
def commandBody (i : Instr) (s : State) (cs : List Word) : State :=
  match i with
  | .code11 _ => s.generate (code11Patterns cs)
  | .ean13 _ => s.runEan 12 cs State.genEan13
  | .ean8 _ => s.runEan 7 cs State.genEan8
  | .i2of5 _ => s.runI2of5 Config.i2of5Empty cs
  | .s2of5 _ => s.runS2of5 cs

/-- Every meaning is the shared operand fetch and then its body. -/
theorem exec_eq_withChars (i : Instr) (s : State) : exec i s = withChars i.len s (commandBody i s) := by
  cases i <;> rfl

/-- Everything a command can do: complete on the characters it reads, or stop at the first entry not written. -/
theorem exec_cases (i : Instr) (s : State) :
    (∃ cs, readChars s.mem 0 i.len.toNat = .ok cs ∧ exec i s = .next (commandBody i s cs)) ∨
      (∃ k, readChars s.mem 0 i.len.toNat = .error k ∧ exec i s = .fault (.unwrittenInput k)) := by
  rw [exec_eq_withChars]
  exact withChars_cases i.len s (commandBody i s)

/-- A command that answers a next state read its characters and ran its body. -/
theorem exec_next {i : Instr} {s t : State} (h : exec i s = .next t) :
    ∃ cs, readChars s.mem 0 i.len.toNat = .ok cs ∧ t = commandBody i s cs := by
  obtain ⟨cs, hr, hx⟩ | ⟨k, hr, hx⟩ := exec_cases i s
  · exact ⟨cs, hr, by rw [h] at hx; exact Host.Outcome.next.inj hx⟩
  · rw [h] at hx
    cases hx

/-- A command on written characters answers the state its body gives. -/
theorem exec_of_readChars {i : Instr} {s : State} {cs : List Word} (h : readChars s.mem 0 i.len.toNat = .ok cs) :
    exec i s = .next (commandBody i s cs) := by
  rw [exec_eq_withChars]
  simp [withChars, h]

/-- The state with its working registers replaced (R32: not visible to the host). -/
def withWork (s : State) (acc chk : BitVec 4) (par : Row ParityChoice) (staging : List Digit) : State :=
  { s with acc := acc, chk := chk, par := par, staging := staging }

/-- Every body changes working registers, then either completes with an error or generates (R235). -/
theorem commandBody_cases (i : Instr) (s : State) (cs : List Word) :
    ∃ a c p st, (∃ k, commandBody i s cs = (withWork s a c p st).complete (.err k)) ∨
      (∃ ps, commandBody i s cs = (withWork s a c p st).generate ps) := by
  have hself : withWork s s.acc s.chk s.par s.staging = s := rfl
  have herr : ∀ k, ∃ a c p st, (∃ k', s.complete (.err k) = (withWork s a c p st).complete (.err k')) ∨
      (∃ ps, s.complete (.err k) = (withWork s a c p st).generate ps) :=
    fun k => ⟨_, _, _, _, .inl ⟨k, by rw [hself]⟩⟩
  cases i with
  | code11 len => exact ⟨_, _, _, _, .inr ⟨_, by rw [hself]; rfl⟩⟩
  | ean13 len =>
    simp only [commandBody, State.runEan]
    split
    · exact herr _
    · split
      · exact herr _
      · split
        · split
          · exact ⟨_, _, _, _, .inl ⟨_, rfl⟩⟩
          · exact ⟨_, _, _, _, .inr ⟨_, rfl⟩⟩
        · exact ⟨_, _, _, _, .inr ⟨_, rfl⟩⟩
  | ean8 len =>
    simp only [commandBody, State.runEan]
    split
    · exact herr _
    · split
      · exact herr _
      · split
        · split
          · exact ⟨_, _, _, _, .inl ⟨_, rfl⟩⟩
          · exact ⟨_, _, _, _, .inr ⟨_, rfl⟩⟩
        · exact ⟨_, _, _, _, .inr ⟨_, rfl⟩⟩
  | i2of5 len =>
    simp only [commandBody, State.runI2of5]
    split
    · exact herr _
    · split
      · exact herr _
      · split
        · exact ⟨_, _, _, _, .inr ⟨_, rfl⟩⟩
        · exact ⟨_, _, _, _, .inr ⟨_, rfl⟩⟩
  | s2of5 len =>
    simp only [commandBody, State.runS2of5]
    split
    · exact herr _
    · exact ⟨_, _, _, _, .inr ⟨_, rfl⟩⟩

end Sys2Proof.Machine
end

