-- ==== Sys2Proof/Laws/Words.lean ====
section
/-! SUPPORT. The laws of the command word: its fields, the bounds of the parameters, what the decoder accepts. -/

namespace Sys2Proof

/-! ## Parameters (R5) -/

theorem Config.maxChars_bounds : 13 ≤ Config.maxChars ∧ Config.maxChars ≤ 65535 := by
  have := Config.extraChars.isLt
  simp only [Config.maxChars]
  omega

/-! ## Fields (R81) -/

@[simp] theorem fmtField_joinFields (len : BitVec 16) (rsv : BitVec 13) (fmt : BitVec 3) :
    fmtField (joinFields len rsv fmt) = fmt := by
  apply BitVec.eq_of_getLsbD_eq
  intro k hk
  simp only [fmtField, joinFields, BitVec.getLsbD_append, BitVec.getLsbD_extractLsb', Nat.zero_add]
  simp [hk]

@[simp] theorem rsvField_joinFields (len : BitVec 16) (rsv : BitVec 13) (fmt : BitVec 3) :
    rsvField (joinFields len rsv fmt) = rsv := by
  apply BitVec.eq_of_getLsbD_eq
  intro k hk
  simp only [rsvField, joinFields, BitVec.getLsbD_append, BitVec.getLsbD_extractLsb']
  simp [hk]

@[simp] theorem lenField_joinFields (len : BitVec 16) (rsv : BitVec 13) (fmt : BitVec 3) :
    lenField (joinFields len rsv fmt) = len := by
  apply BitVec.eq_of_getLsbD_eq
  intro k hk
  have h1 : ¬ 16 + k < 3 := by omega
  have h2 : ¬ 16 + k - 3 < 13 := by omega
  have h3 : 16 + k - 3 - 13 = k := by omega
  simp only [lenField, joinFields, BitVec.getLsbD_append, BitVec.getLsbD_extractLsb', h1, h2, h3]
  simp [hk]

/-- A word is its three fields. -/
theorem joinFields_fields (v : Word) : joinFields (lenField v) (rsvField v) (fmtField v) = v := by
  apply BitVec.eq_of_getLsbD_eq
  intro k hk
  simp only [joinFields, lenField, rsvField, fmtField, BitVec.getLsbD_append, BitVec.getLsbD_extractLsb']
  by_cases h0 : k < 3
  · simp [h0]
  · by_cases h1 : k - 3 < 13
    · have h2 : 3 + (k - 3) = k := by omega
      simp [h0, h1, h2]
    · have h2 : 16 + (k - 3 - 13) = k := by omega
      have h3 : k - 3 - 13 < 16 := by omega
      simp [h0, h1, h2, h3]

/-! ## Formats (R82) -/

@[simp] theorem formatOf_fmtOf (f : Format) : formatOf (fmtOf f) = some f := by
  cases f <;> rfl

/-- A FMT value names a format exactly when it is that format's value. -/
theorem formatOf_eq_some_iff (fmt : BitVec 3) (f : Format) : formatOf fmt = some f ↔ fmt = fmtOf f := by
  cases f <;> revert fmt <;> decide

/-- FMT values 5, 6 and 7 name no format (R82). -/
theorem formatOf_eq_none_iff (fmt : BitVec 3) : formatOf fmt = none ↔ 4 < fmt.toNat := by
  revert fmt
  decide

@[simp] theorem Format.command_format (f : Format) (len : BitVec 16) : (f.command len).format = f := by
  cases f <;> rfl

@[simp] theorem Format.command_len (f : Format) (len : BitVec 16) : (f.command len).len = len := by
  cases f <;> rfl

@[simp] theorem Instr.format_command (i : Instr) : i.format.command i.len = i := by
  cases i <;> rfl

/-- What well-formedness says of a command's LEN. -/
theorem Instr.wfWith_iff (m : Nat) (i : Instr) : i.wfWith m = true ↔ i.len.toNat ≤ m := by
  simp [Instr.wfWith]

end Sys2Proof
end

