-- ==== Sys2Proof/Laws/PerInstr.lean ====
section
/-! SUPPORT. Per-instruction statements about the command word (30_encoding.md R81, R92, R94). -/

namespace Sys2Proof.Laws.WordFields

/-- The word of a command has its format's FMT value, RSV = 0 and its LEN. -/
def Statement (i : Instr) : Prop :=
  fmtField (encode i) = fmtOf i.format ∧ rsvField (encode i) = 0 ∧ lenField (encode i) = i.len

theorem code11 (len : BitVec 16) : Statement (.code11 len) := by
  simp [Statement, encode]

theorem ean13 (len : BitVec 16) : Statement (.ean13 len) := by
  simp [Statement, encode]

theorem ean8 (len : BitVec 16) : Statement (.ean8 len) := by
  simp [Statement, encode]

theorem i2of5 (len : BitVec 16) : Statement (.i2of5 len) := by
  simp [Statement, encode]

theorem s2of5 (len : BitVec 16) : Statement (.s2of5 len) := by
  simp [Statement, encode]

end Sys2Proof.Laws.WordFields
end

