-- ==== Sys2Proof/Laws/Platform.lean ====
section
/-! SUPPORT. Laws of the instances' windows. -/

namespace Sys2Proof.Machine

/-- A later instance takes a higher frame. -/
theorem frame_lt {j k : Nat} (h : j < k) : Config.frame j < Config.frame k := by
  induction k with
  | zero => exact absurd h (Nat.not_lt_zero j)
  | succ k ih =>
    rw [show Config.frame (k + 1) = Config.frame k + 1 + Config.frameGap (k + 1) from rfl]
    obtain h | rfl := Nat.lt_succ_iff_lt_or_eq.mp h
    · have := ih h
      omega
    · omega

/-- What it takes for a bus address to lie in a window (R50). -/
theorem inWindow_iff (k addr : Nat) :
    inWindow k addr = true ↔ Config.base k ≤ addr ∧ addr < Config.base k + windowSize := by
  simp only [inWindow, Bool.and_eq_true, decide_eq_true_eq]

end Sys2Proof.Machine
end

