-- ==== Sys2Proof/Laws/Port.lean ====
section
/-! SUPPORT. What a host access can do. -/

namespace Sys2Proof.Machine

/-- A region is CHAR_IN[i] only below MAX_CHARS and inside its address range (R51). -/
theorem regionOf_charIn {off i : Nat} (h : regionOf off = .charIn i) :
    i < Config.maxChars ∧ i = (off - 0x40000) / 4 ∧ 0x40000 ≤ off ∧ off < 0x80000 := by
  unfold regionOf at h
  split_ifs at h
  simp_all

/-- Everything a read can do: an answer and nothing else on the block, or a fault (R52, R53, R65). -/
theorem memRead_cases (off width : Nat) (s : State) :
    (∃ v, memRead off width s = .next (s.answer v)) ∨ memRead off width s = .next s.answerFree ∨
      ∃ r, memRead off width s = .fault r := by
  unfold memRead
  split
  · exact .inr (.inr ⟨_, rfl⟩)
  · split
    · exact .inl ⟨_, rfl⟩
    · exact .inl ⟨_, rfl⟩
    · exact .inl ⟨_, rfl⟩
    · split
      · exact .inl ⟨_, rfl⟩
      · exact .inr (.inl rfl)
    · split
      · exact .inr (.inl rfl)
      · exact .inl ⟨_, rfl⟩
    · exact .inr (.inr ⟨_, rfl⟩)
    · exact .inr (.inr ⟨_, rfl⟩)

/-- Everything a write can do: start a command, store a character, nothing, or a fault (R52). -/
theorem memWrite_cases (off width : Nat) (v : Word) (s : State) :
    (memWrite off width v s = .next (s.startCommand v) ∧ s.seq ≠ .run ∧ off = 0 ∧ width = 4) ∨
      (∃ i, i < Config.maxChars ∧ ¬ (s.seq = .run ∧ i < s.lenL.toNat) ∧
        memWrite off width v s = .next { s with mem := s.mem.setCharIn i v }) ∨
      memWrite off width v s = .next s ∨ ∃ r, memWrite off width v s = .fault r := by
  unfold memWrite
  split
  · exact .inr (.inr (.inr ⟨_, rfl⟩))
  · rename_i hok
    split
    · rename_i hreg
      simp only [writeCmd]
      split
      · exact .inr (.inr (.inl rfl))
      · rename_i hrun
        refine .inl ⟨rfl, hrun, ?_, ?_⟩
        · unfold regionOf at hreg
          split_ifs at hreg
          assumption
        · have h0 : off = 0 := by
            unfold regionOf at hreg
            split_ifs at hreg
            assumption
          simpa [malformed, windowSize, h0] using hok
    · exact .inr (.inr (.inl rfl))
    · exact .inr (.inr (.inl rfl))
    · rename_i i hreg
      unfold writeCharIn
      split
      · exact .inr (.inr (.inr ⟨_, rfl⟩))
      · rename_i hrace
        exact .inr (.inl ⟨i, (regionOf_charIn hreg).1, hrace, rfl⟩)
    · exact .inr (.inr (.inr ⟨_, rfl⟩))
    · exact .inr (.inr (.inr ⟨_, rfl⟩))
    · exact .inr (.inr (.inr ⟨_, rfl⟩))

/-- Everything one host statement can do to the block: nothing, start a command, store a character, reset it, or fault. -/
theorem takeOp_cases (op : HostOp) (s : State) :
    (∃ t, takeOp op s = .next t ∧ SameBlock s t ∧ t.delay = s.delay) ∨
      (∃ v, op = .write 0 4 v ∧ s.seq ≠ .run ∧ takeOp op s = .next (s.startCommand v)) ∨
      (∃ i v, i < Config.maxChars ∧ ¬ (s.seq = .run ∧ i < s.lenL.toNat) ∧
        takeOp op s = .next { s with mem := s.mem.setCharIn i v }) ∨
      (op = .reset ∧ takeOp op s = .next s.resetBlock) ∨ ∃ r, takeOp op s = .fault r := by
  cases op with
  | read off width =>
    simp only [takeOp]
    obtain ⟨v, h⟩ | h | ⟨r, h⟩ := memRead_cases off width s
    · exact .inl ⟨_, h, by simp [SameBlock], rfl⟩
    · exact .inl ⟨_, h, by simp [SameBlock], rfl⟩
    · exact .inr (.inr (.inr (.inr ⟨_, h⟩)))
  | write off width v =>
    simp only [takeOp]
    obtain ⟨h, hr, ho, hw⟩ | ⟨i, hi, hrace, h⟩ | h | ⟨r, h⟩ := memWrite_cases off width v s
    · exact .inr (.inl ⟨v, by rw [ho, hw], hr, h⟩)
    · exact .inr (.inr (.inl ⟨i, v, hi, hrace, h⟩))
    · exact .inl ⟨s, h, by simp [SameBlock], rfl⟩
    · exact .inr (.inr (.inr (.inr ⟨r, h⟩)))
  | poll =>
    simp only [takeOp, pollStatus]
    split <;> exact .inl ⟨_, rfl, by simp [SameBlock], rfl⟩
  | readOut =>
    simp only [takeOp, expandReadOut]
    split <;> exact .inl ⟨_, rfl, by simp [SameBlock], rfl⟩
  | reset => exact .inr (.inr (.inr (.inl ⟨rfl, rfl⟩)))

end Sys2Proof.Machine
end

