-- ==== Sys2Proof/Laws/Step.lean ====
section
/-! SUPPORT. What a step can do. -/

namespace Sys2Proof.Machine

/-- The state a host turn starts from: a running command's delay is one turn shorter. -/
def turnState (s : State) : State := { s with delay := if s.seq = .run then s.delay - 1 else s.delay }

/-- A step is the running command's completion when no host turn is left before it, and a host turn otherwise. -/
theorem step_eq (s : State) :
    step s = if s.seq = .run ∧ s.delay = 0 then runCommand s else hostTurn (turnState s) := by
  obtain ⟨_, _, _, seq, _, _, _, _, _, _, _, _, _, _, _, _, delay, _, _⟩ := s
  cases seq <;> cases delay <;> simp [step, turnState]

/-- Everything running the latched command can do (R234, R86). -/
theorem runCommand_cases (s : State) :
    (∃ i, decode s.latched = .ok i ∧ runCommand s = exec i s) ∨
      (∃ e, decode s.latched = .error e ∧ runCommand s = .next (s.complete .illegal)) := by
  unfold runCommand
  cases h : decode s.latched with
  | ok i => exact .inl ⟨i, rfl, rfl⟩
  | error e => exact .inr ⟨e, rfl, rfl⟩

/-- Everything a host turn can do. -/
theorem hostTurn_cases (s : State) :
    (s.host = [] ∧ hostTurn s = .next s) ∨
      ∃ op rest, s.host = op :: rest ∧ hostTurn s = takeOp op { s with host := rest } := by
  unfold hostTurn
  cases h : s.host with
  | nil => exact .inl ⟨rfl, rfl⟩
  | cons op rest => exact .inr ⟨op, rest, rfl, rfl⟩

/-- Everything a step can do (R33, R234): the running command completes, legal or not; or the host, with one turn less left before
a running command's completion, has nothing to do or has its next statement taken. -/
theorem step_next {s t : State} (h : step s = .next t) :
    (s.seq = .run ∧ s.delay = 0 ∧
      ((∃ i, decode s.latched = .ok i ∧ exec i s = .next t) ∨
        ∃ e, decode s.latched = .error e ∧ t = s.complete .illegal)) ∨
    ∃ d, ((s.seq = .run ∧ s.delay = d + 1) ∨ (s.seq ≠ .run ∧ s.delay = d)) ∧
      ((s.host = [] ∧ t = { s with delay := d }) ∨
        ∃ op rest, s.host = op :: rest ∧ takeOp op { s with delay := d, host := rest } = .next t) := by
  rw [step_eq] at h
  split at h
  · rename_i hr
    refine .inl ⟨hr.1, hr.2, ?_⟩
    obtain ⟨i, hd, he⟩ | ⟨e, hd, he⟩ := runCommand_cases s
    · exact .inl ⟨i, hd, by rw [← he, h]⟩
    · rw [he] at h
      exact .inr ⟨e, hd, (Host.Outcome.next.inj h).symm⟩
  · rename_i hr
    have hturn : ∃ d, ((s.seq = .run ∧ s.delay = d + 1) ∨ (s.seq ≠ .run ∧ s.delay = d)) ∧
        turnState s = { s with delay := d } := by
      refine ⟨_, ?_, rfl⟩
      by_cases hs : s.seq = .run
      · have : s.delay ≠ 0 := fun h0 => hr ⟨hs, h0⟩
        exact .inl ⟨hs, by rw [if_pos hs]; omega⟩
      · exact .inr ⟨hs, by rw [if_neg hs]⟩
    obtain ⟨d, hd, hts⟩ := hturn
    rw [hts] at h
    refine .inr ⟨d, hd, ?_⟩
    obtain ⟨h0, h1⟩ | ⟨op, rest, h0, h1⟩ := hostTurn_cases { s with delay := d }
    · rw [h1] at h
      exact .inl ⟨h0, (Host.Outcome.next.inj h).symm⟩
    · rw [h1] at h
      exact .inr ⟨op, rest, h0, h⟩

/-- The fetch word is the latched command, about to complete. -/
theorem withFetchWord_latched (s : State) (nbits w : Nat) :
    (s.withFetchWord nbits w).latched = BitVec.ofNat 32 (w % 2 ^ nbits) ∧ (s.withFetchWord nbits w).seq = .run ∧
      (s.withFetchWord nbits w).delay = 0 :=
  ⟨joinFields_fields _, rfl, rfl⟩

end Sys2Proof.Machine
end

