-- ==== Sys2Proof/Tests/Slice0.lean ====
section
/-! SUPPORT. The model's own tests. Expected results come from 95_test_vectors.md (V1 to V5, T1 to T102, P1 to P4) or are written
out from the rule named. Then a witness for the hypotheses of each statement. -/

namespace Sys2Proof.Tests

open Sys2Proof.Machine

/-! ## Helpers -/

/-- The characters of a list of digit values. -/
def digits (ds : List Digit) : List Word := ds.map digitChar

/-- CHAR_IN with the given characters written from entry `i` on. -/
def written (m : Memory) : Nat → List Word → Memory
  | _, [] => m
  | i, c :: cs => written (m.setCharIn i c) (i + 1) cs

/-- The reset state with the given characters written. -/
def loaded (cs : List Word) : State := { State.reset with mem := written [] 0 cs }

/-- STATUS, OUT_LEN and the held BIT_OUT bits after an outcome. -/
def shown (o : Host.Outcome State Fault Refusal) : Option (Word × Word × Bits) :=
  match o with
  | .next t => some (t.status.toWord, t.outLen, t.bitOut)
  | .fault _ => none
  | .refused _ => none

/-- The answers the host has after an outcome. -/
def answered (o : Host.Outcome State Fault Refusal) : Option (List Word) :=
  match o with
  | .next t => some t.answers
  | .fault _ => none
  | .refused _ => none

/-- W_OUT is at most 28673 (R51). -/
theorem outWords_le : Config.outWords ≤ 28673 := by
  have := Config.maxChars_bounds
  simp only [Config.outWords, Config.maxBits]
  omega

/-- A running command with two host turns left, the host polling. -/
def busy : State := { State.reset.latch 0x00000000 2 with host := [.poll] }

/-! ## Well-formedness (R85) -/

theorem smoke_code11_too_long : (Instr.code11 14).wfWith 13 = false := by decide
theorem smoke_ean13_too_long : (Instr.ean13 65535).wfWith 65534 = false := by decide
theorem smoke_ean8_too_long : (Instr.ean8 14).wfWith 13 = false := by decide
theorem smoke_i2of5_too_long : (Instr.i2of5 14).wfWith 13 = false := by decide
theorem smoke_s2of5_too_long : (Instr.s2of5 14).wfWith 13 = false := by decide
theorem smoke_len_13_legal : (Instr.ean13 13).wf = true := by decide

/-! ## Words written out from R81 and R92: LEN, RSV, FMT -/

theorem test_word_code11 : decode (0b0000000000001000#16 ++ 0b0000000000000#13 ++ 0b000#3) = .ok (.code11 8) := by decide
theorem test_word_ean13 : decode (0b0000000000001101#16 ++ 0b0000000000000#13 ++ 0b001#3) = .ok (.ean13 13) := by decide
theorem test_word_ean8 : decode (0b0000000000000111#16 ++ 0b0000000000000#13 ++ 0b010#3) = .ok (.ean8 7) := by decide
theorem test_word_i2of5 : decode (0b0000000000000111#16 ++ 0b0000000000000#13 ++ 0b011#3) = .ok (.i2of5 7) := by decide
theorem test_word_s2of5 : decode (0b0000000000001000#16 ++ 0b0000000000000#13 ++ 0b100#3) = .ok (.s2of5 8) := by decide
/-- T86 to T90: reserved FMT, then RSV bits 3 and 15. -/
theorem test_word_fmt5 : decode 0x00000005 = .error .reservedFormat := by decide
theorem test_word_fmt6 : decode 0x00040006 = .error .reservedFormat := by decide
theorem test_word_fmt7 : decode 0x00000007 = .error .reservedFormat := by decide
theorem test_word_rsv_low : decode 0x00000008 = .error .reservedBits := by decide
theorem test_word_rsv_high : decode 0x000D8001 = .error .reservedBits := by decide
/-- T91, T92: LEN 14 against MAX_CHARS 13 and 14. -/
theorem test_word_len_13 : decodeWith 13 0x000E0000 = .error .lengthTooLong := by decide
theorem test_word_len_14 : decodeWith 14 0x000E0000 = .ok (.code11 14) := by decide
/-- R94's example. -/
theorem test_encode_ean13 : encode (.ean13 13) = 0x000D0001 := by decide
theorem test_table_word : decodeTableWord 32 0x00000004 = some (.s2of5 0) := by decide

/-! ## The five commands, one step each -/

/-- V2: ENC.EAN13 on "7501031311309"; STATUS 0x2, OUT_LEN 95. -/
theorem test_ean13_V2 : shown (exec (.ean13 13) (loaded (digits [7, 5, 0, 1, 0, 3, 1, 3, 1, 1, 3, 0, 9]))) =
    some (2, 95, pattern 95
      0b10101100010100111001100101001110111101011001101010100001011001101100110100001011100101110100101) := by decide

/-- T35: a wrong EAN13 check digit; STATUS 0xE. -/
theorem test_ean13_T35 : shown (exec (.ean13 13) (loaded (digits [7, 5, 0, 1, 0, 3, 1, 3, 1, 1, 3, 0, 8]))) =
    some (0xE, 0, []) := by decide

/-- V3 in its 7-digit form, T47: ENC.EAN8 on "5512345". -/
theorem test_ean8_T47 : shown (exec (.ean8 7) (loaded (digits [5, 5, 1, 2, 3, 4, 5]))) =
    some (2, 67, pattern 67 0b1010110001011000100110010010011010101000010101110010011101000100101) := by decide

/-- T49: ENC.EAN8 on "5512345A"; STATUS 0xA. -/
theorem test_ean8_T49 : shown (exec (.ean8 8) (loaded (digits [5, 5, 1, 2, 3, 4, 5] ++ [0x41]))) = some (0xA, 0, []) := by
  decide

/-- V1: ENC.CODE11 on "123-4530". -/
theorem test_code11_V1 : shown (exec (.code11 8) (loaded [0x31, 0x32, 0x33, 0x2D, 0x34, 0x35, 0x33, 0x30])) =
    some (2, 77, pattern 77 0b10110010110101101001011011001010101101010110110110110101100101010101101011001) := by decide

/-- T62: U+2010 is no '-' and is skipped. -/
theorem test_code11_T62 : shown (exec (.code11 3) (loaded [0x31, 0x2010, 0x32])) =
    some (2, 31, pattern 31 0b1011001011010110100101101011001) := by decide

/-- V4: ENC.I2OF5 on "1234567", padded with 0. -/
theorem test_i2of5_V4 : shown (exec (.i2of5 7) (loaded (digits [1, 2, 3, 4, 5, 6, 7]))) =
    some (2, 64, pattern 64 0b1010110100101011001101101001010011010011001010101010011001101101) := by decide

/-- T74: the width rows of 8 and 9. -/
theorem test_i2of5_T74 : shown (exec (.i2of5 2) (loaded (digits [8, 9]))) =
    some (2, 22, pattern 22 0b1010110100101100101101) := by decide

/-- T65: an odd Standard 2-of-5 input is not padded. -/
theorem test_s2of5_T65 : shown (exec (.s2of5 3) (loaded (digits [1, 2, 3]))) =
    some (2, 57, pattern 57 0b110110101110101010111010111010101110111011101010101101011) := by decide

/-- V5: ENC.S2OF5 on "12345670". -/
theorem test_s2of5_V5 : shown (exec (.s2of5 8) (loaded (digits [1, 2, 3, 4, 5, 6, 7, 0]))) =
    some (2, 127, pattern 127
      0b1101101011101010101110101110101011101110111010101010101110101110111010111010101011101110101010101011101110101011101110101101011) := by
  decide

/-! ## The functional core -/

/-- T78, T79: the empty Interleaved input under both values of I2OF5_EMPTY. -/
theorem test_i2of5_empty_accept : encI2of5 .accept [] = .ok (pattern 8 0b10101101) := by decide
theorem test_i2of5_empty_wrongSize : encI2of5 .wrongSize [] = .error .wrongSize := by decide
/-- T58: every Code11 table entry once. -/
theorem test_code11_T58 :
    encCode11 (digits [0, 1, 2, 3, 4, 5, 6, 7, 8, 9] ++ [0x2D]) = .ok (pattern 100
      0b1011001010101101101011010010110110010101011011011011010100110101010011011010010110101010110101011001) := by decide
/-- T25: parity row 6, and L(6), R(6), R(8), G(2), G(3), G(4). -/
theorem test_ean13_T25 : encEan13 (digits [6, 1, 2, 3, 4, 5, 6, 7, 8, 9, 0, 1]) = .ok (pattern 95
    0b10100110010011011010000100111010110001010111101010100010010010001110100111001011001101010000101) := by decide
/-- T39: WrongSize wins over a letter. -/
theorem test_priority_T39 : encEan13 (digits [7, 5, 0, 1, 0, 3, 1, 3, 1, 1] ++ [0x58] ++ digits [0, 9, 9]) =
    .error .wrongSize := by decide

/-! ## Checksum (T7, T16, T17) -/

theorem test_checksum_T7 : checksum [1, 3] = 0 := by decide
theorem test_checksum_T16 : checksum [4, 0, 0, 6, 3, 8, 1, 3, 3, 3, 9, 3] = 1 := by decide
theorem test_acc_T17 : accRun 0 [5, 4, 3, 2, 1, 5, 5] 0 = 3 ∧ accRun 0 [5, 4, 3] 0 = 8 ∧ checkOf 3 = 7 := by decide

/-! ## The host port -/

/-- T98: the BIT_OUT words of V2. -/
theorem test_outWord_T98 :
    ({ State.reset with bitOut := ean13Bits (fun j => [7, 5, 0, 1, 0, 3, 1, 3, 1, 1, 3, 0, 9].getD j 0) } : State).outWord 0 =
      0x7299CA35 := by decide
/-- T100: STATUS while busy. -/
theorem test_status_busy : answered (takeOp (.read 4 4) busy) = some [1] := by decide
/-- T101: ignored writes and bus errors. -/
theorem test_status_write : takeOp (.write 4 4 0xFFFFFFFF) busy = .next busy := by rfl
theorem test_narrow_access : takeOp (.read 0 2) busy = .fault .busError := by rfl
theorem test_misaligned_access : takeOp (.read 2 4) busy = .fault .busError := by rfl
theorem test_reserved_offset : takeOp (.read 0xC 4) busy = .fault .busError := by rfl
/-- R51: the last reserved word, and the first address that is the platform's. -/
theorem test_last_offset : 0x80000 + 4 * Config.outWords ≤ 0xFFFFC ∧ regionOf 0x100000 = .outside ∧
    takeOp (.read 0x100000 4) busy = .fault .outsideWindow ∧ takeOp (.read 0xFFFFF 4) busy = .fault .busError := by
  have := outWords_le
  exact ⟨by omega, rfl, rfl, rfl⟩
theorem test_bitOut_write : takeOp (.write 0x80000 4 0) busy = .fault .busError := by rfl
/-- T102: a command of length 1 straight after reset. -/
theorem test_unwritten_T102 : exec (.code11 1) State.reset = .fault (.unwrittenInput 0) := by rfl
/-- T95: length 0 straight after reset is well defined. -/
theorem test_first_command_T95 : shown (step (State.reset.withFetchWord 32 0)) =
    some (2, 15, pattern 15 0b101100101011001) := by decide
/-- T86: FMT 5 completes with IllegalCommand. -/
theorem test_illegal_T86 : shown (step (State.reset.withFetchWord 32 5)) = some (0x12, 0, []) := by decide
/-- R63, R51: the bytes of CHAR_IN[1]. -/
theorem test_charIn_bytes : Memory.setCharIn [] 1 0x0002010 =
    [(0x40004, 0x10), (0x40005, 0x20), (0x40006, 0x00), (0x40007, 0x00)] := by decide
theorem test_mem_wf : (loaded (digits [1, 2, 3])).mem.wf = true := by decide

/-! ## Host statements (R93 to R96) -/

theorem test_WRC : stmtWRC 12 0x39 = .write 0x40030 4 0x39 := by decide
theorem test_ENCODE : stmtENCODE .ean8 (digits [5]) =
    [.write 0x40000 4 0x35, .write 0 4 0x00010002, .poll, .read 4 4, .read 8 4, .readOut] := by decide
theorem test_readOut : outReads 95 = [.read 0x80000 4, .read 0x80004 4, .read 0x80008 4] := by decide
theorem test_busAccess : (busAccess platformReset (Config.base 0 + 4) (fun off => .read off 4))[0]? =
    some { State.reset with host := [.read 4 4] } := by
  simp [busAccess, platformReset, Config.nInst, inWindow, windowOffset, windowSize, State.reset]

/-! ## Witnesses: the hypotheses of each statement can be met -/

/-- `busy` meets the block's invariant. -/
theorem busy_inv : busy.Inv := by
  refine ⟨⟨?_, ?_, ?_, ?_⟩, ⟨?_, ?_, ?_, ?_⟩, ⟨rfl, ?_⟩, ⟨?_, ?_⟩, ?_⟩ <;>
    simp [busy, State.latch, State.reset, statusStarted, Memory.readByte, Memory.unlisted, State.LatchInv, State.latched,
      joinFields, fmtField, rsvField, lenField]

theorem busy_step : ∃ t, step busy = .next t ∧ t.seq = .run := ⟨_, rfl, rfl⟩

theorem witness_DecodeEncodeAgree :
    (Instr.ean13 13).wfWith 13 = true ∧ decodeWith 13 0x000D0001 = .ok (.ean13 13) := by decide

theorem witness_CmdWriteStartsCommand : busy.seq = .run ∧ State.reset.seq ≠ .run ∧
    ∃ s t : State, s.seq ≠ .run ∧ step s = .next t ∧ t.seq = .run :=
  ⟨rfl, by decide, { State.reset with host := [.write 0 4 1] }, _, by decide, rfl, rfl⟩

/-- A step that keeps CMD, one that writes it, one that resets it. -/
theorem witness_CmdHoldsLastAcceptedWrite : (∃ t, step busy = .next t) ∧
    (∃ t, step { State.reset with host := [.write 0 4 1] } = .next t ∧ t.cmd = 1) ∧
    ∃ t, step { busy with host := [.reset] } = .next t ∧ t.cmd = 0 :=
  ⟨⟨_, rfl⟩, ⟨_, rfl, rfl⟩, ⟨_, rfl, rfl⟩⟩

theorem witness_SequencerTransitions : busy.Inv ∧ ∃ t, step busy = .next t := ⟨busy_inv, _, rfl⟩

theorem witness_StepKeepsBlockInvariant : busy.Inv ∧ ∃ t, step busy = .next t := ⟨busy_inv, _, rfl⟩

theorem outWords_pos : 6 < Config.outWords := by
  have := Config.maxChars_bounds
  simp only [Config.outWords, Config.maxBits]
  omega

theorem witness_WindowMapFits : 0 < Config.maxChars ∧ Config.maxChars - 1 < Config.maxChars ∧ 0 < Config.outWords ∧
    Config.outWords - 1 < Config.outWords := by
  have := Config.maxChars_bounds
  have := outWords_pos
  omega

/-- Each kind of refused access, at the edges of the reserved ranges. -/
theorem witness_BusErrorAccesses : (2 : Nat) ≠ 4 ∧ 0x40002 % 4 ≠ 0 ∧ ReservedOffset 0xC ∧ ReservedOffset 0x3FFFF ∧
    ReservedOffset (0x40000 + 4 * Config.maxChars) ∧ ReservedOffset 0x7FFFF ∧
    ReservedOffset (0x80000 + 4 * Config.outWords) ∧ ReservedOffset 0xFFFFF ∧ ¬ ReservedOffset 8 ∧ ¬ ReservedOffset 0x40000 ∧
    ¬ ReservedOffset 0x80000 ∧ ¬ ReservedOffset 0x100000 ∧ 0 < Config.outWords := by
  have := Config.maxChars_bounds
  have := outWords_le
  have := outWords_pos
  simp only [ReservedOffset]
  omega

theorem witness_MappedReadsHaveNoSideEffect : MappedOffset 0 ∧ MappedOffset 4 ∧ MappedOffset 8 ∧
    MappedOffset (0x40000 + 4 * (Config.maxChars - 1)) ∧ MappedOffset (0x80000 + 4 * (Config.outWords - 1)) := by
  have := Config.maxChars_bounds
  have := outWords_pos
  refine ⟨.inl rfl, .inr (.inl rfl), .inr (.inr (.inl rfl)), .inr (.inr (.inr (.inl ⟨_, by omega, rfl⟩))),
    .inr (.inr (.inr (.inr ⟨_, by omega, rfl⟩)))⟩

/-- The invariant in RUN; a step that keeps OUT_LEN, one that takes a CMD write, one a reset, and one that completes. -/
theorem witness_OutLenReadReturnsRegister : busy.Inv ∧ (∃ t, step busy = .next t) ∧
    (∃ t, step { State.reset with host := [.write 0 4 1] } = .next t ∧ t.outLen = 0) ∧
    (∃ t, step { busy with host := [.reset] } = .next t ∧ t.outLen = 0) ∧
    ∃ t, step { busy with delay := 0 } = .next t ∧ t.seq = .done ∧ t.outLen = 15 :=
  ⟨busy_inv, ⟨_, rfl⟩, ⟨_, rfl, rfl⟩, ⟨_, rfl, rfl⟩, _, rfl, rfl, by decide⟩

/-- A written entry, read while a command runs. -/
theorem witness_CharInStoresAndReads_running : (0 : Nat) < Config.maxChars ∧
    ({ loaded (digits [5]) with seq := .run } : State).mem.charIn 0 = some 0x35 := by
  have := Config.maxChars_bounds
  exact ⟨by omega, by decide⟩

theorem witness_CharInStoresAndReads : Config.maxChars - 1 < Config.maxChars ∧ State.reset.seq ≠ .run ∧
    State.reset.mem.charIn (Config.maxChars - 1) = none := by
  have := Config.maxChars_bounds
  exact ⟨by omega, by decide, rfl⟩

/-- A write to entry 0, and a reset. -/
theorem witness_CharInPersists : (∃ t, step { State.reset with host := [.write 0x40000 4 0x35] } = .next t ∧
      t.mem.charIn 0 = some 0x35) ∧ ∃ t, step { loaded (digits [1]) with host := [.reset] } = .next t ∧ t.mem.charIn 0 = none :=
  ⟨⟨_, rfl, by decide⟩, ⟨_, rfl, rfl⟩⟩

theorem witness_BitOutPacking : 0 < Config.maxBits ∧ Config.maxBits - 1 < Config.maxBits ∧ State.reset.seq ≠ .run := by
  simp only [Config.maxBits]
  exact ⟨by omega, by omega, by decide⟩

theorem witness_AppendExtendsOutput : ({ State.reset with bitOut := [true, false, true], wptr := 3 } : State).wptr ≤ 3 ∧
    (0 : Nat) < [true].length := by decide

/-- Both clauses: LEN_L 1 against entries 0 and 1. -/
theorem witness_CharInWriteWhileBusy : (0 : Nat) < Config.maxChars ∧ (1 : Nat) < Config.maxChars ∧
    (State.reset.latch 0x00010000 2).seq = .run ∧ 0 < (State.reset.latch 0x00010000 2).lenL.toNat ∧
    (State.reset.latch 0x00010000 2).lenL.toNat ≤ 1 := by
  have := Config.maxChars_bounds
  exact ⟨by omega, by omega, rfl, by decide, by decide⟩

theorem witness_ReadsWhileBusy : busy.Inv ∧ busy.seq = .run ∧ 0 < Config.outWords :=
  ⟨busy_inv, rfl, by have := outWords_pos; omega⟩

theorem witness_CmdWriteWhileBusyLost :
    ({ busy with host := [.write 0 4 1] } : State).seq = .run ∧ ({ busy with host := [.write 0 4 1] } : State).delay = 1 + 1 :=
  ⟨rfl, rfl⟩

/-- A completed command, the host reading STATUS. -/
theorem witness_ResultLifetime : ∃ s t : State, s.seq = .done ∧ step s = .next t ∧
    (∀ v rest, s.host ≠ .write 0 4 v :: rest) ∧ ∀ rest, s.host ≠ .reset :: rest :=
  ⟨{ State.reset.complete .ok with host := [.read 4 4] }, _, rfl, rfl, by simp, by simp⟩

theorem witness_AdderStepInRange : (9 : BitVec 4).toNat ≤ 9 := by decide

/-- A sum that is 0 modulo 10 and one that is 1 (T7, T6). -/
theorem witness_ChecksumCornerCases :
    weightedSum 0 [1, 3].reverse % 10 = 0 ∧ weightedSum 0 [7].reverse % 10 = 1 := by decide

theorem witness_ParityRowsShape : (9 : Digit) ≠ 0 := by decide

theorem witness_WidthRowsAreTwoOfFive :
    (rowList (⟨.wide, .narrow, .narrow, .wide, .narrow⟩ : Row WidthChoice)).count .wide = 2 := by decide

theorem witness_Code11Completes : (digits [1, 2] ++ [0x2D]).length = (3 : BitVec 16).toNat ∧
    (loaded (digits [1, 2] ++ [0x2D])).Holds (digits [1, 2] ++ [0x2D]) := ⟨by decide, by unfold State.Holds; decide⟩

/-- Both forms: 12 digits, and 13 with the check digit. -/
theorem witness_Ean13Completes : ([7, 5, 0, 1, 0, 3, 1, 3, 1, 1, 3, 0] : List Digit).length = 12 ∧
    (digits [7, 5, 0, 1, 0, 3, 1, 3, 1, 1, 3, 0]).length = (12 : BitVec 16).toNat ∧
    (digits ([7, 5, 0, 1, 0, 3, 1, 3, 1, 1, 3, 0] ++ [checksum [7, 5, 0, 1, 0, 3, 1, 3, 1, 1, 3, 0]])).length =
      (13 : BitVec 16).toNat ∧
    (loaded (digits [7, 5, 0, 1, 0, 3, 1, 3, 1, 1, 3, 0])).Holds (digits [7, 5, 0, 1, 0, 3, 1, 3, 1, 1, 3, 0]) ∧
    (loaded (digits [7, 5, 0, 1, 0, 3, 1, 3, 1, 1, 3, 0, 9])).Holds
      (digits ([7, 5, 0, 1, 0, 3, 1, 3, 1, 1, 3, 0] ++ [checksum [7, 5, 0, 1, 0, 3, 1, 3, 1, 1, 3, 0]])) := by
  unfold State.Holds
  exact ⟨by decide, by decide, by decide, by decide, by decide⟩

/-- Both forms: 7 digits, and 8 with the check digit. -/
theorem witness_Ean8Completes : ([5, 5, 1, 2, 3, 4, 5] : List Digit).length = 7 ∧
    (digits [5, 5, 1, 2, 3, 4, 5]).length = (7 : BitVec 16).toNat ∧
    (digits ([5, 5, 1, 2, 3, 4, 5] ++ [checksum [5, 5, 1, 2, 3, 4, 5]])).length = (8 : BitVec 16).toNat ∧
    (loaded (digits [5, 5, 1, 2, 3, 4, 5])).Holds (digits [5, 5, 1, 2, 3, 4, 5]) ∧
    (loaded (digits [5, 5, 1, 2, 3, 4, 5, 7])).Holds (digits ([5, 5, 1, 2, 3, 4, 5] ++ [checksum [5, 5, 1, 2, 3, 4, 5]])) := by
  unfold State.Holds
  exact ⟨by decide, by decide, by decide, by decide, by decide⟩

/-- Both parities of the length, 1 the smallest. -/
theorem witness_I2of5Completes : ([5] : List Digit).length = (1 : BitVec 16).toNat ∧ 1 ≤ ([5] : List Digit).length ∧
    (loaded (digits [5])).Holds ([5].map digitChar) ∧ ([1, 2] : List Digit).length = (2 : BitVec 16).toNat ∧
    (loaded (digits [1, 2])).Holds ([1, 2].map digitChar) := by
  unfold State.Holds
  exact ⟨by decide, by decide, by decide, by decide, by decide⟩

/-- No digit, and three. -/
theorem witness_S2of5Completes : ([] : List Digit).length = (0 : BitVec 16).toNat ∧ State.reset.Holds ([].map digitChar) ∧
    ([1, 2, 3] : List Digit).length = (3 : BitVec 16).toNat ∧ (loaded (digits [1, 2, 3])).Holds ([1, 2, 3].map digitChar) := by
  unfold State.Holds
  exact ⟨by decide, by decide, by decide, by decide⟩

theorem witness_CommandRefinesEncode : (digits [5, 5, 1]).length = (Instr.ean8 3).len.toNat ∧
    (loaded (digits [5, 5, 1])).Holds (digits [5, 5, 1]) := ⟨by decide, by unfold State.Holds; decide⟩

/-- Entry 0 written, entry 1 not. -/
theorem witness_UnwrittenInputStops : 1 < (Instr.s2of5 2).len.toNat ∧ (loaded (digits [1])).mem.charIn 1 = none ∧
    ∀ j, j < 1 → ((loaded (digits [1])).mem.charIn j).isSome = true := by decide

theorem witness_IllegalCommandCompletes :
    ({ State.reset with host := [.write 0 4 5] } : State).seq ≠ .run ∧ legal 5 = false ∧ legal 0x00000008 = false := by decide

/-- A command that ends with WrongSize. -/
theorem witness_FailedCommandWritesNoBit : ∃ t, exec (.ean13 0) State.reset = .next t ∧ t.status.code ≠ 0 :=
  ⟨_, rfl, by decide⟩

/-- A command of each format that answers a next state. -/
theorem witness_CommandFrame : (∃ t, exec (.code11 0) State.reset = .next t) ∧ (∃ t, exec (.ean13 0) State.reset = .next t) ∧
    (∃ t, exec (.ean8 0) State.reset = .next t) ∧ (∃ t, exec (.i2of5 1) (loaded (digits [5])) = .next t) ∧
    ∃ t, exec (.s2of5 0) State.reset = .next t := ⟨⟨_, rfl⟩, ⟨_, rfl⟩, ⟨_, rfl⟩, ⟨_, rfl⟩, ⟨_, rfl⟩⟩

/-- Two states that agree on CHAR_IN[0] only. -/
theorem witness_CommandsArePure :
    (∀ k, k < (Instr.s2of5 1).len.toNat → (loaded (digits [1, 2])).mem.charIn k = (loaded (digits [1])).mem.charIn k) ∧
      ∃ t, exec (.s2of5 1) (loaded (digits [1])) = .next t := ⟨by decide, _, rfl⟩

theorem witness_TailBitsUnspecified : (Instr.s2of5 0).wf = true ∧
    ∃ t, exec (.s2of5 0) State.reset = .next t ∧ t.status.code = 0 := ⟨by decide, _, rfl, by decide⟩

theorem witness_Ean13CheckDigitIdentity : ([0, 0, 0, 0, 0, 0, 0, 0, 0, 0, 0, 0] : List Digit).length = 12 := by decide
theorem witness_Ean8CheckDigitIdentity : ([0, 1, 2, 3, 4, 5, 6] : List Digit).length = 7 := by decide
theorem witness_I2of5PaddingIdentity : ([1, 2, 3] : List Digit).length % 2 = 1 := by decide
theorem witness_Code11Length : encCode11 [] = .ok (pattern 15 0b101100101011001) := by decide

/-- Both neighbours of the digit range and a word that is no Unicode scalar. -/
theorem witness_Code11SkipsUnknown : ¬ ((0x30 ≤ (0x2F : Word).toNat ∧ (0x2F : Word).toNat ≤ 0x39) ∨ (0x2F : Word).toNat = 0x2D) ∧
    ¬ ((0x30 ≤ (0x3A : Word).toNat ∧ (0x3A : Word).toNat ≤ 0x39) ∨ (0x3A : Word).toNat = 0x2D) ∧
    ¬ ((0x30 ≤ (0xD800 : Word).toNat ∧ (0xD800 : Word).toNat ≤ 0x39) ∨ (0xD800 : Word).toNat = 0x2D) := by decide

theorem witness_TwoOfFiveLengths : 1 ≤ ([5] : List Digit).length ∧ EmptyPolicy.accept = .accept := by decide

theorem witness_OutputLengthBound : encodeSymbol .accept .code11 [] = .ok (pattern 15 0b101100101011001) ∧
    ([] : List Word).length ≤ Config.maxChars := ⟨by decide, Nat.zero_le _⟩

/-- Running with no turn left, running with two, and idle. -/
theorem witness_StepRunsDecodedCommand : (State.reset.withFetchWord 32 0).seq = .run ∧
    (State.reset.withFetchWord 32 0).delay = 0 ∧ decode (State.reset.withFetchWord 32 0).latched = .ok (.code11 0) ∧
    busy.seq = .run ∧ busy.delay = 1 + 1 ∧ State.reset.seq ≠ .run := by decide

/-- A running command of length 0 with two turns left: a host that reads OUT_LEN, writes CHAR_IN[0] and then resets, and a quiet one. -/
theorem witness_EveryCommandCompletes :
    (∀ op ∈ ({ busy with host := [.read 8 4, .write 0x40000 4 1, .reset] } : State).host.take 2,
      ({ busy with host := [.read 8 4, .write 0x40000 4 1, .reset] } : State).HarmlessOp op) ∧
    (∀ op ∈ ({ busy with host := [] } : State).host.take 2, ({ busy with host := [] } : State).HarmlessOp op) ∧
    busy.seq = .run ∧ busy.delay = 2 ∧ ∃ cs : List Word, cs.length = busy.lenL.toNat ∧ busy.Holds cs := by
  have := Config.maxChars_bounds
  refine ⟨?_, by simp, rfl, rfl, [], rfl, by unfold State.Holds; decide⟩
  simp [State.HarmlessOp, MappedOffset, busy, State.latch, State.reset, lenField]
  omega

theorem witness_PollReturns : busy.Inv ∧ busy.seq = .run ∧ busy.host = .poll :: [] ∧
    ∃ cs : List Word, cs.length = busy.lenL.toNat ∧ busy.Holds cs :=
  ⟨busy_inv, rfl, rfl, [], rfl, by unfold State.Holds; decide⟩

theorem witness_WriteStringStoresCharacters :
    ({ State.reset with host := stmtWRS (digits [5, 5]) ++ [.poll] } : State).seq ≠ .run ∧
      (digits [5, 5]).length ≤ Config.maxChars := by
  have := Config.maxChars_bounds
  exact ⟨by decide, by simp [digits]; omega⟩

/-- A platform of one running instance, its step, and another platform that agrees on it. -/
theorem witness_InstancesAreIndependent : (∃ q, platformStep [busy, State.reset] 0 = .next q) ∧
    [busy, State.reset][0]? = [busy][0]? ∧ (1 : Nat) ≠ 0 := ⟨⟨_, rfl⟩, rfl, by decide⟩

theorem witness_WindowsAreDisjoint : inWindow 0 (Config.base 0) = true ∧ inWindow 1 (Config.base 1 + 0xFFFFF) = true ∧
    (0 : Nat) ≠ 1 := by
  simp only [inWindow_iff]
  exact ⟨⟨Nat.le_refl _, Nat.lt_add_of_pos_right (by decide)⟩, ⟨Nat.le_add_right _ _, Nat.add_lt_add_left (by decide) _⟩,
    by decide⟩

end Sys2Proof.Tests
end

section
/-! PROOFS. The windows on the bus (20_memory.md R50, R70). -/

namespace Sys2Proof.Machine

/-- A later window starts at or above the end of an earlier one (R5, R70). -/
theorem base_add_windowSize_le {j k : Nat} (h : j < k) : Config.base j + windowSize ≤ Config.base k := by
  have hf := frame_lt h
  simp only [Config.base, windowSize]
  omega

/-- No two windows share a bus address. -/
theorem inWindow_unique {j k addr : Nat} (hj : inWindow j addr = true) (hk : inWindow k addr = true) : j = k := by
  rw [inWindow_iff] at hj hk
  obtain hlt | heq | hgt := Nat.lt_trichotomy j k
  · have := base_add_windowSize_le hlt
    omega
  · exact heq
  · have := base_add_windowSize_le hgt
    omega

theorem windowOffset_lt {k addr : Nat} (h : inWindow k addr = true) : windowOffset k addr < windowSize := by
  rw [inWindow_iff] at h
  simp only [windowOffset]
  omega

/-- An access whose address lies in window `k` joins the queue of block `k`, at its byte offset there (R22). -/
theorem getElem?_busAccess_of_inWindow (p : List State) {k addr : Nat} (op : Nat → HostOp) (h : inWindow k addr = true) :
    (busAccess p addr op)[k]? = p[k]?.map (fun s => { s with host := s.host ++ [op (windowOffset k addr)] }) := by
  simp [busAccess, h]

/-- An access changes no block whose window does not hold its address. -/
theorem getElem?_busAccess_of_not_inWindow (p : List State) {j addr : Nat} (op : Nat → HostOp)
    (h : ¬ inWindow j addr = true) : (busAccess p addr op)[j]? = p[j]? := by
  simp [busAccess, h]

/-- Settles O59: a later window takes a higher frame, so no two windows meet. -/
theorem windowsAreDisjoint : Obligations.WindowsAreDisjoint := by
  unfold Obligations.WindowsAreDisjoint
  refine ⟨fun k => Nat.mul_mod_left _ _, fun j k addr => inWindow_unique, fun p k addr op hk => ⟨windowOffset_lt hk,
    getElem?_busAccess_of_inWindow p op hk, fun j hjk => ?_⟩⟩
  exact getElem?_busAccess_of_not_inWindow p op fun hj => hjk (inWindow_unique hj hk)

end Sys2Proof.Machine
end

section
/-! PROOFS. How many bits each generation phase appends (R171, R174, R192, R212, R217), and so MAX_BITS (R61, R236). -/

namespace Sys2Proof.Machine

/-! ## Table entries -/

@[simp] theorem pattern_length (n v : Nat) : (pattern n v).length = n := by
  simp [pattern]

@[simp] theorem codeL_length (d : Digit) : (codeL d).length = 7 := by
  unfold codeL
  split <;> exact pattern_length _ _

@[simp] theorem codeG_length (d : Digit) : (codeG d).length = 7 := by
  unfold codeG
  split <;> exact pattern_length _ _

@[simp] theorem codeR_length (d : Digit) : (codeR d).length = 7 := by
  unfold codeR
  split <;> exact pattern_length _ _

@[simp] theorem leftHand_length (par : Row ParityChoice) (d : Digit) (pos : Nat) : (leftHand par d pos).length = 7 := by
  unfold leftHand
  split
  · exact codeL_length d
  · exact codeG_length d

/-- A Standard 2-of-5 digit is 14 bits wide (R211). -/
@[simp] theorem s25Digit_length (d : Digit) : (s25Digit d).length = 14 := by
  revert d
  decide

/-- An Interleaved 2-of-5 pair is 14 bits wide (R216). -/
@[simp] theorem i25Pair_length (a b : Digit) : (i25Pair a b).length = 14 := by
  revert a b
  decide

theorem code11Table_length_le {cp : Nat} {p : Bits} (h : code11Table cp = some p) : p.length ≤ 7 := by
  unfold code11Table at h
  split at h <;> cases h <;> decide

/-! ## Generation phases -/

/-- An EAN13 symbol has 95 bits whatever its digits (R171). -/
theorem ean13Patterns_length (par : Row ParityChoice) (d : Nat → Digit) :
    (ean13Patterns par d).flatten.length = 95 := by
  simp [ean13Patterns, span, List.range', eanGuard, eanCentre]

/-- An EAN8 symbol has 67 bits whatever its digits (R174). -/
theorem ean8Patterns_length (d : Nat → Digit) : (ean8Patterns d).flatten.length = 67 := by
  simp [ean8Patterns, span, List.range', eanGuard, eanCentre]

/-- A character takes at most 7 bits and its separator (R190, R192). -/
theorem code11Char_length_le (c : Word) : (code11Char c).flatten.length ≤ 8 := by
  unfold code11Char
  split
  · rename_i p hp
    have := code11Table_length_le hp
    simp only [c11Sep, List.flatten_cons, List.flatten_nil, List.length_append, List.length_nil, pattern_length]
    omega
  · exact Nat.zero_le _

theorem code11Chars_length_le (cs : List Word) : (cs.flatMap code11Char).flatten.length ≤ 8 * cs.length := by
  induction cs with
  | nil => simp
  | cons c cs ih =>
    have hc := code11Char_length_le c
    rw [List.flatMap_cons, List.flatten_append, List.length_append, List.length_cons]
    omega

theorem code11Patterns_length_le (cs : List Word) : (code11Patterns cs).flatten.length ≤ 15 + 8 * cs.length := by
  have := code11Chars_length_le cs
  simp only [code11Patterns, c11Start, c11Sep, c11Stop, List.flatten_append, List.flatten_cons, List.flatten_nil,
    List.length_append, List.length_nil, pattern_length]
  omega

/-- A Standard 2-of-5 symbol has 15 bits and 14 for each digit (R212). -/
theorem s25Patterns_length (ds : List Digit) : (s25Patterns ds).flatten.length = 15 + 14 * ds.length := by
  have hdigits : (ds.map s25Digit).flatten.length = 14 * ds.length := by
    simp [Function.comp_def, Nat.mul_comm]
  simp only [s25Patterns, s25Start, s25Stop, List.flatten_append, List.flatten_cons, List.flatten_nil,
    List.length_append, List.length_nil, pattern_length]
  omega

theorem i25Pairs_length : ∀ ds : List Digit, (i25Pairs ds).flatten.length = 14 * (ds.length / 2)
  | [] => rfl
  | [_] => by simp [i25Pairs]
  | a :: b :: rest => by
    have ih := i25Pairs_length rest
    simp only [i25Pairs, List.flatten_cons, List.length_append, i25Pair_length, ih, List.length_cons]
    omega

/-- An Interleaved 2-of-5 symbol has 8 bits and 14 for each pair of digits (R217). -/
theorem i25Patterns_length (ds : List Digit) : (i25Patterns ds).flatten.length = 8 + 14 * (ds.length / 2) := by
  have := i25Pairs_length ds
  simp only [i25Patterns, i25Start, i25Stop, List.flatten_append, List.flatten_cons, List.flatten_nil,
    List.length_append, List.length_nil, pattern_length]
  omega

/-! ## Results of ENCODE -/

/-- An EAN encoder accepts its payload with or without the check digit, nothing else (R232). -/
theorem le_length_of_eanDigits_ok {m : Nat} {cs : List Word} {ds : List Digit} (h : eanDigits m cs = .ok ds) :
    m ≤ cs.length := by
  unfold eanDigits at h
  split at h
  · cases h
  · omega

theorem encEan13_length_le {cs : List Word} {bits : Bits} (h : encEan13 cs = .ok bits) :
    bits.length ≤ 15 + 14 * cs.length := by
  unfold encEan13 at h
  split at h
  · cases h
  · rename_i ds hds
    have := le_length_of_eanDigits_ok hds
    cases h
    rw [ean13Patterns_length]
    omega

theorem encEan8_length_le {cs : List Word} {bits : Bits} (h : encEan8 cs = .ok bits) :
    bits.length ≤ 15 + 14 * cs.length := by
  unfold encEan8 at h
  split at h
  · cases h
  · rename_i ds hds
    have := le_length_of_eanDigits_ok hds
    cases h
    rw [ean8Patterns_length]
    omega

theorem encCode11_length_le {cs : List Word} {bits : Bits} (h : encCode11 cs = .ok bits) :
    bits.length ≤ 15 + 14 * cs.length := by
  have := code11Patterns_length_le cs
  cases h
  omega

theorem encS2of5_length_le {cs : List Word} {bits : Bits} (h : encS2of5 cs = .ok bits) :
    bits.length ≤ 15 + 14 * cs.length := by
  unfold encS2of5 at h
  split at h
  · cases h
  · cases h
    rw [s25Patterns_length, List.length_map]

/-- With at most one padding digit, an Interleaved symbol takes 7 bits a character and 15 more. -/
theorem i25Patterns_length_le {ds : List Digit} {n : Nat} (h : ds.length ≤ n + 1) :
    (i25Patterns ds).flatten.length ≤ 15 + 7 * n := by
  rw [i25Patterns_length]
  omega

theorem encI2of5_length_le {p : EmptyPolicy} {cs : List Word} {bits : Bits} (h : encI2of5 p cs = .ok bits) :
    bits.length ≤ 15 + 14 * cs.length := by
  unfold encI2of5 at h
  split at h
  · cases h
  · split at h
    · cases h
    · cases h
      refine (i25Patterns_length_le (n := cs.length) ?_).trans (by omega)
      split <;> simp

theorem encodeSymbol_length_le {p : EmptyPolicy} {f : Format} {cs : List Word} {bits : Bits}
    (h : encodeSymbol p f cs = .ok bits) : bits.length ≤ 15 + 14 * cs.length := by
  cases f with
  | code11 => exact encCode11_length_le h
  | ean13 => exact encEan13_length_le h
  | ean8 => exact encEan8_length_le h
  | interleaved2of5 => exact encI2of5_length_le h
  | standard2of5 => exact encS2of5_length_le h

/-- MAX_BITS is what MAX_CHARS characters can take at most (R5, R236). -/
theorem le_maxBits_of_length_le {b n : Nat} (hb : b ≤ 15 + 14 * n) (hn : n ≤ Config.maxChars) : b ≤ Config.maxBits := by
  simp only [Config.maxBits]
  omega

/-- Settles O52: by the width each format spends on a character. -/
theorem outputLengthBound : Obligations.OutputLengthBound := by
  unfold Obligations.OutputLengthBound
  intro p f cs bits h
  have hlen := encodeSymbol_length_le h
  exact ⟨hlen, le_maxBits_of_length_le hlen⟩

end Sys2Proof.Machine
end

section
/-! PROOFS. Every step keeps the block's invariant: each operation of the model does, and a step is one of them. -/

namespace Sys2Proof.Machine

/-! ## The host's part of a state -/

/-- The invariant speaks of the block's own part of a state only. -/
theorem State.Inv.of_sameBlock {s t : State} (h : s.Inv) (hst : SameBlock s t) : t.Inv := by
  obtain ⟨hcmd, hstatus, houtLen, hseq, hfmtL, hrsvL, hlenL, hacc, hchk, -, hwptr, -, hmem, hbitOut, -⟩ := hst
  obtain ⟨⟨hbusy, hdone, hcle, hc0⟩, ⟨ho0, hoe, hbits, hw⟩, ⟨hwf, hrange⟩, ⟨ha, hc⟩, hlatch⟩ := h
  simp only [State.LatchInv, State.latched] at hlatch
  constructor
  · constructor <;> simpa only [hstatus, hseq]
  · constructor <;> simpa only [hstatus, hseq, houtLen, hbitOut, hwptr]
  · constructor <;> simpa only [hmem]
  · constructor <;> simpa only [hacc, hchk]
  · simpa only [State.LatchInv, State.latched, hseq, hlenL, hrsvL, hfmtL, hcmd]

/-! ## Host statements -/

/-- Starting a command keeps the invariant (R24). -/
theorem State.Inv.startCommand {s : State} (h : s.Inv) (v : Word) : (s.startCommand v).Inv where
  status := by constructor <;> simp [statusStarted]
  output := ⟨fun _ => rfl, by simp, h.output.bits_le, h.output.wptr_le⟩
  input := ⟨h.input.mem_wf, h.input.mem_range⟩
  acc := ⟨h.acc.acc_le, h.acc.chk_le⟩
  latch := fun _ => joinFields_fields v

/-- Storing a character in an entry that exists keeps CHAR_IN canonical and inside its range (R51, R54). -/
theorem State.InputInv.setCharIn {s : State} (h : s.InputInv) {i : Nat} (hi : i < Config.maxChars) (v : Word) :
    State.InputInv { s with mem := s.mem.setCharIn i v } where
  mem_wf := Memory.setCharIn_wf _ _ _ h.mem_wf
  mem_range := by
    intro a ha
    by_cases hin : charInOffset i ≤ a ∧ a < charInOffset i + 4
    · simp only [charInOffset] at hin
      omega
    · rw [Memory.readByte_setCharIn, if_neg hin] at ha
      exact h.mem_range a ha

theorem State.Inv.setCharIn {s : State} (h : s.Inv) {i : Nat} (hi : i < Config.maxChars) (v : Word) :
    State.Inv { s with mem := s.mem.setCharIn i v } where
  status := ⟨h.status.busy_iff, h.status.done_iff, h.status.code_le, h.status.code_zero⟩
  output := ⟨h.output.outLen_zero, h.output.outLen_eq, h.output.bits_le, h.output.wptr_le⟩
  input := h.input.setCharIn hi v
  acc := ⟨h.acc.acc_le, h.acc.chk_le⟩
  latch := h.latch

/-- A reset leaves the invariant from any state (R280; the hidden registers' values are those of log entry 8). -/
theorem State.resetBlock_inv (s : State) : s.resetBlock.Inv where
  status := by constructor <;> simp [State.resetBlock, State.reset]
  output := ⟨fun _ => rfl, fun _ _ => rfl, Nat.zero_le _, Nat.zero_le _⟩
  input := ⟨State.reset_mem_wf, by simp [State.resetBlock, State.reset, Memory.readByte, Memory.unlisted]⟩
  acc := ⟨Nat.zero_le _, Nat.zero_le _⟩
  latch := fun h => absurd rfl h

theorem takeOp_inv {op : HostOp} {s t : State} (h : s.Inv) (hop : takeOp op s = .next t) : t.Inv := by
  obtain ⟨u, hu, hsame, -⟩ | ⟨v, -, -, hu⟩ | ⟨i, v, hi, -, hu⟩ | ⟨-, hu⟩ | ⟨r, hu⟩ := takeOp_cases op s <;>
    rw [hu] at hop <;> cases hop
  · exact h.of_sameBlock hsame
  · exact h.startCommand v
  · exact h.setCharIn hi v
  · exact s.resetBlock_inv

/-! ## A running command -/

/-- The invariant while a command runs. -/
structure State.RunningInv (s : State) : Prop where
  inv : s.Inv
  running : s.seq = .run

namespace State.RunningInv

variable {s : State}

/-- Working registers may change while ACC and CHK stay at most 9 (R35). -/
theorem withWork (h : s.RunningInv) {acc chk : BitVec 4} (ha : acc.toNat ≤ 9) (hc : chk.toNat ≤ 9)
    (par : Row ParityChoice) (staging : List Digit) : (withWork s acc chk par staging).RunningInv where
  inv :=
    { status := ⟨h.inv.status.busy_iff, h.inv.status.done_iff, h.inv.status.code_le, h.inv.status.code_zero⟩
      output := ⟨h.inv.output.outLen_zero, h.inv.output.outLen_eq, h.inv.output.bits_le, h.inv.output.wptr_le⟩
      input := ⟨h.inv.input.mem_wf, h.inv.input.mem_range⟩
      acc := ⟨ha, hc⟩
      latch := h.inv.latch }
  running := h.running

theorem stage (h : s.RunningInv) (ds : List Digit) : (s.stage ds).RunningInv :=
  h.withWork h.inv.acc.acc_le h.inv.acc.chk_le s.par ds

theorem loadParity (h : s.RunningInv) (row : Row ParityChoice) : (s.loadParity row).RunningInv :=
  h.withWork h.inv.acc.acc_le h.inv.acc.chk_le row s.staging

theorem runChecksum (h : s.RunningInv) (ds : List Digit) : (s.runChecksum ds).RunningInv :=
  h.withWork (accRun_le 0 ds.reverse 0 (Nat.zero_le _)) (checkOf_le _) s.par s.staging

end State.RunningInv

/-! ## Completions -/

/-- STATUS.CODE is at most 4 (R251). -/
theorem completionCode_le (c : Completion) : (completionCode c).toNat ≤ 4 := by
  obtain _ | k | _ := c
  · decide
  · cases k <;> decide
  · decide

/-- Only a success has CODE 0 (R251). -/
theorem completionCode_eq_zero_iff (c : Completion) : completionCode c = 0 ↔ c = .ok := by
  obtain _ | k | _ := c
  · decide
  · cases k <;> decide
  · decide

theorem completionLength_of_ne_ok {c : Completion} (h : c ≠ .ok) (wptr : Nat) : completionLength c wptr = 0 := by
  cases c with
  | ok => exact absurd rfl h
  | err k => rfl
  | illegal => rfl

/-- OUT_LEN holds every count up to MAX_BITS (R29). -/
theorem maxBits_lt : Config.maxBits < 2 ^ 32 := by
  have := Config.maxChars_bounds
  simp only [Config.maxBits]
  omega

theorem completionLength_ok_toNat {wptr : Nat} (h : wptr ≤ Config.maxBits) : (completionLength .ok wptr).toNat = wptr := by
  rw [completionLength, BitVec.toNat_ofNat, Nat.mod_eq_of_lt (Nat.lt_of_le_of_lt h maxBits_lt)]

theorem State.complete_statusInv (s : State) (c : Completion) : (s.complete c).StatusInv where
  busy_iff := by simp [statusCompleted]
  done_iff := by simp [statusCompleted]
  code_le := completionCode_le c
  code_zero := fun h => absurd rfl h

/-- A completion makes OUT_LEN right when a success has its write pointer at the end of the bits it wrote (R27, R60). -/
theorem State.OutputInv.complete {s : State} (h : s.OutputInv) {c : Completion} (hc : c = .ok → s.wptr = s.bitOut.length) :
    (s.complete c).OutputInv where
  outLen_zero := by
    rintro (hseq | hcode)
    · exact absurd rfl hseq
    · exact completionLength_of_ne_ok (fun hok => hcode ((completionCode_eq_zero_iff c).2 hok)) _
  outLen_eq := by
    intro _ hcode
    obtain rfl := (completionCode_eq_zero_iff c).1 hcode
    exact (completionLength_ok_toNat h.wptr_le).trans (hc rfl)
  bits_le := h.bits_le
  wptr_le := h.wptr_le

namespace State.RunningInv

variable {s : State}

theorem complete (h : s.RunningInv) {c : Completion} (hc : c = .ok → s.wptr = s.bitOut.length) : (s.complete c).Inv where
  status := s.complete_statusInv c
  output := h.inv.output.complete hc
  input := ⟨h.inv.input.mem_wf, h.inv.input.mem_range⟩
  acc := ⟨h.inv.acc.acc_le, h.inv.acc.chk_le⟩
  latch := fun _ => h.inv.latch (by simp [h.running])

theorem raise (h : s.RunningInv) (k : EncodingError) : (s.raise k).Inv := h.complete (by simp)

/-- A generation phase of at most MAX_BITS bits keeps the invariant (R61, R235). -/
theorem generate (h : s.RunningInv) {ps : List Bits} (hps : ps.flatten.length ≤ Config.maxBits) : (s.generate ps).Inv := by
  have happ := State.appendAll_eq s.startGeneration ps rfl
  have hrun : (s.startGeneration.appendAll ps).RunningInv := by
    rw [happ]
    refine ⟨⟨?_, ?_, ?_, ?_, h.inv.latch⟩, h.running⟩
    · exact ⟨h.inv.status.busy_iff, h.inv.status.done_iff, h.inv.status.code_le, h.inv.status.code_zero⟩
    · exact ⟨h.inv.output.outLen_zero, fun hd => by simp [h.running] at hd, by simpa using hps, by simpa using hps⟩
    · exact ⟨h.inv.input.mem_wf, h.inv.input.mem_range⟩
    · exact ⟨h.inv.acc.acc_le, h.inv.acc.chk_le⟩
  exact hrun.complete fun _ => by simp [happ]

/-! ## The five commands -/

theorem genEan13 (h : s.RunningInv) : s.genEan13.Inv := by
  have := Config.maxChars_bounds
  refine (h.loadParity _).generate ?_
  rw [ean13Patterns_length, Config.maxBits]
  omega

theorem genEan8 (h : s.RunningInv) : s.genEan8.Inv := by
  have := Config.maxChars_bounds
  refine h.generate ?_
  rw [ean8Patterns_length, Config.maxBits]
  omega

/-- An EAN encoder keeps the invariant when its generation phase does. -/
theorem runEan (h : s.RunningInv) (m : Nat) (cs : List Word) {gen : State → State}
    (hgen : ∀ t : State, t.RunningInv → (gen t).Inv) : (s.runEan m cs gen).Inv := by
  have ht := (h.stage (cs.map dv)).runChecksum ((cs.map dv).take m)
  unfold State.runEan
  split
  · exact h.raise _
  · split
    · exact h.raise _
    · dsimp only
      split
      · split
        · exact ht.raise _
        · exact hgen _ ht
      · exact hgen _ (ht.stage _)

theorem runS2of5 (h : s.RunningInv) {cs : List Word} (hcs : cs.length ≤ Config.maxChars) : (s.runS2of5 cs).Inv := by
  unfold State.runS2of5
  split
  · exact h.raise _
  · refine (h.stage _).generate (le_maxBits_of_length_le (n := cs.length) ?_ hcs)
    rw [s25Patterns_length, State.stage_staging, List.length_map]

theorem runI2of5 (h : s.RunningInv) (p : EmptyPolicy) {cs : List Word} (hcs : cs.length ≤ Config.maxChars) :
    (s.runI2of5 p cs).Inv := by
  have hlen : ∀ {ds : List Digit}, ds.length ≤ cs.length + 1 → (i25Patterns ds).flatten.length ≤ Config.maxBits :=
    fun hds => le_maxBits_of_length_le ((i25Patterns_length_le hds).trans (by omega)) hcs
  unfold State.runI2of5
  split
  · exact h.raise _
  · split
    · exact h.raise _
    · dsimp only
      split
      · exact (((h.stage _).runChecksum _).stage _).generate (hlen (by simp))
      · exact (h.stage _).generate (hlen (by simp))

/-- A command on at most MAX_CHARS characters keeps the invariant. -/
theorem commandBody (h : s.RunningInv) (i : Instr) {cs : List Word} (hcs : cs.length ≤ Config.maxChars) :
    (commandBody i s cs).Inv := by
  cases i with
  | code11 len =>
    have := code11Patterns_length_le cs
    exact h.generate (le_maxBits_of_length_le (by omega) hcs)
  | ean13 len => exact h.runEan 12 cs fun _ => genEan13
  | ean8 len => exact h.runEan 7 cs fun _ => genEan8
  | i2of5 len => exact h.runI2of5 _ hcs
  | s2of5 len => exact h.runS2of5 hcs

end State.RunningInv

/-! ## Steps -/

/-- A decoded command's LEN is at most MAX_CHARS (R85, R88). -/
theorem len_le_of_decode {v : Word} {i : Instr} (h : decode v = .ok i) : i.len.toNat ≤ Config.maxChars := by
  unfold decode decodeWith at h
  split at h
  · cases h
  · split_ifs at h with hrsv hlen
    cases h
    rw [Format.command_len]
    omega

theorem exec_inv {i : Instr} {s t : State} (h : s.RunningInv) (hi : i.len.toNat ≤ Config.maxChars)
    (he : exec i s = .next t) : t.Inv := by
  obtain ⟨cs, hread, rfl⟩ := exec_next he
  obtain ⟨hlen, -⟩ := (readChars_ok_iff s.mem 0 i.len.toNat cs).1 hread
  exact h.commandBody i (hlen.trans_le hi)

/-- Settles O10: by what a step can do, each of which keeps the invariant. -/
theorem stepKeepsBlockInvariant : Obligations.StepKeepsBlockInvariant := by
  unfold Obligations.StepKeepsBlockInvariant
  intro s t h hstep
  obtain ⟨hrun, -, ⟨i, hdec, hexec⟩ | ⟨e, -, rfl⟩⟩ | ⟨d, -, ⟨-, rfl⟩ | ⟨op, rest, -, hop⟩⟩ := step_next hstep
  · exact exec_inv ⟨h, hrun⟩ (len_le_of_decode hdec) hexec
  · exact State.RunningInv.complete ⟨h, hrun⟩ (by simp)
  · exact h.of_sameBlock (by simp [SameBlock])
  · exact takeOp_inv (h.of_sameBlock (by simp [SameBlock])) hop

end Sys2Proof.Machine
end

section
/-! PROOFS. The checksum unit computes the check digit (40_checksum.md R110 to R114). -/

namespace Sys2Proof.Machine

theorem accStep_toNat (acc : BitVec 4) (k : Nat) (d : Digit) :
    (accStep acc k d).toNat = (acc.toNat + weight k * d.val) % 10 := by
  simp only [accStep, BitVec.toNat_ofNat]
  omega

theorem checkOf_toNat (acc : BitVec 4) : (checkOf acc).toNat = (10 - acc.toNat) % 10 := by
  simp only [checkOf, BitVec.toNat_ofNat]
  omega

/-- The accumulator run is the weighted sum modulo 10. -/
theorem accRun_toNat (k : Nat) (ds : List Digit) (acc : BitVec 4) (h : acc.toNat ≤ 9) :
    (accRun k ds acc).toNat = (acc.toNat + weightedSum k ds) % 10 := by
  induction ds generalizing k acc with
  | nil =>
    simp only [accRun, weightedSum]
    omega
  | cons d ds ih =>
    simp only [accRun, weightedSum]
    rw [ih (k + 1) _ (accStep_le acc k d), accStep_toNat]
    omega

theorem checksum_val (ds : List Digit) : (checksum ds).val = (10 - weightedSum 0 ds.reverse % 10) % 10 := by
  simp only [checksum]
  split
  · rename_i h
    rw [h]
    rfl
  · rfl

/-- CHK after the unit ran is the check digit (R113, R114). -/
theorem checkOf_accRun_toNat (ds : List Digit) : (checkOf (accRun 0 ds.reverse 0)).toNat = (checksum ds).val := by
  rw [checkOf_toNat, accRun_toNat 0 ds.reverse 0 (Nat.zero_le _), checksum_val]
  simp

@[simp] theorem State.checkDigit_runChecksum (s : State) (ds : List Digit) : (s.runChecksum ds).checkDigit = checksum ds := by
  apply Fin.ext
  rw [State.checkDigit, State.runChecksum_chk, checkOf_accRun_toNat]
  exact Nat.mod_eq_of_lt (checksum ds).isLt

end Sys2Proof.Machine
end

section
/-! PROOFS. A command is a validation, which writes working registers only, and an end that ENCODE gives
(46_dispatch.md R230, R234, R235; 60_exceptions.md R250). -/

namespace Sys2Proof.Machine

/-! ## How a command ends -/

/-- From `w`, which holds the working registers as validation leaves them, a command of result `res` ends in `u`: it raises the
error, or generates the symbol (R235, R250). -/
inductive State.Ends (w : State) : Except EncodingError Bits → State → Prop where
  | error (k : EncodingError) : w.Ends (.error k) (w.raise k)
  | ok (ps : List Bits) : w.Ends (.ok ps.flatten) (w.generate ps)

namespace State.Ends

variable {w u : State} {res : Except EncodingError Bits}

/-- What a command shows the host is its result (R27, R32). -/
theorem shows (h : w.Ends res u) : u.Shows res := by
  cases h with
  | error k => exact ⟨rfl, rfl, rfl⟩
  | ok ps =>
    rw [State.generate_eq]
    exact ⟨rfl, rfl, rfl, rfl⟩

theorem seq_eq (h : w.Ends res u) : u.seq = .done := by
  cases h with
  | error k => rfl
  | ok ps => rfl

theorem sameOutside (h : w.Ends res u) : w.SameOutside u := by
  cases h with
  | error k => simp [State.SameOutside]
  | ok ps => simp [State.SameOutside, State.generate_eq]

theorem work_eq (h : w.Ends res u) : u.acc = w.acc ∧ u.chk = w.chk ∧ u.par = w.par ∧ u.staging = w.staging := by
  cases h with
  | error k => exact ⟨rfl, rfl, rfl, rfl⟩
  | ok ps => simp [State.generate_eq]

end State.Ends

/-! ## What validation writes -/

/-- `w` is `s` with those working registers replaced that the validation of the format can write (R112, R170, R173, R192, R212,
R217; log entry 11). -/
inductive State.Validated (s : State) : Format → State → Prop where
  | code11 : s.Validated .code11 s
  | standard2of5 (st : List Digit) : s.Validated .standard2of5 (withWork s s.acc s.chk s.par st)
  | interleaved2of5 (a c : BitVec 4) (st : List Digit) : s.Validated .interleaved2of5 (withWork s a c s.par st)
  | ean8 (a c : BitVec 4) (st : List Digit) : s.Validated .ean8 (withWork s a c s.par st)
  | ean13 (a c : BitVec 4) (p : Row ParityChoice) (st : List Digit) : s.Validated .ean13 (withWork s a c p st)

namespace State.Validated

variable {s w : State} {f : Format}

theorem sameOutside (h : s.Validated f w) {u : State} (hu : w.SameOutside u) : s.SameOutside u := by
  cases h <;> exact hu

theorem checksum_eq (h : s.Validated f w) (hf : f = .code11 ∨ f = .standard2of5) : w.acc = s.acc ∧ w.chk = s.chk := by
  obtain rfl | rfl := hf <;> cases h <;> exact ⟨rfl, rfl⟩

theorem par_eq (h : s.Validated f w) (hf : f ≠ .ean13) : w.par = s.par := by
  cases h with
  | ean13 => exact absurd rfl hf
  | _ => rfl

theorem staging_eq (h : s.Validated f w) (hf : f = .code11) : w.staging = s.staging := by
  cases hf
  cases h
  rfl

end State.Validated

/-! ## The five commands -/

/-- An EAN encoder raises the error that the pure EAN digits end with, or generates from those digits, staged (R170, R173). -/
theorem runEan_cases (s : State) (m : Nat) (cs : List Word) (gen : State → State) :
    (∃ k a c st, eanDigits m cs = .error k ∧ s.runEan m cs gen = (withWork s a c s.par st).raise k) ∨
      ∃ ds a c, eanDigits m cs = .ok ds ∧ s.runEan m cs gen = gen (withWork s a c s.par ds) := by
  unfold eanDigits State.runEan
  split
  · exact .inl ⟨_, s.acc, s.chk, s.staging, rfl, rfl⟩
  · split
    · exact .inl ⟨_, s.acc, s.chk, s.staging, rfl, rfl⟩
    · simp only [State.checkDigit_runChecksum, State.digit, State.runChecksum_staging, State.stage_staging]
      split
      · split
        · exact .inl ⟨_, _, _, _, rfl, rfl⟩
        · exact .inr ⟨_, _, _, rfl, rfl⟩
      · exact .inr ⟨_, _, _, rfl, rfl⟩

theorem runEan13_ends (s : State) (cs : List Word) :
    ∃ w, s.Validated .ean13 w ∧ w.Ends (encEan13 cs) (s.runEan 12 cs State.genEan13) := by
  unfold encEan13
  obtain ⟨k, a, c, st, hd, hr⟩ | ⟨ds, a, c, hd, hr⟩ := runEan_cases s 12 cs State.genEan13 <;> rw [hd, hr]
  · exact ⟨_, .ean13 a c s.par st, .error k⟩
  · exact ⟨_, .ean13 a c (parityRow (ds.getD 0 0)) ds, .ok _⟩

theorem runEan8_ends (s : State) (cs : List Word) :
    ∃ w, s.Validated .ean8 w ∧ w.Ends (encEan8 cs) (s.runEan 7 cs State.genEan8) := by
  unfold encEan8
  obtain ⟨k, a, c, st, hd, hr⟩ | ⟨ds, a, c, hd, hr⟩ := runEan_cases s 7 cs State.genEan8 <;> rw [hd, hr]
  · exact ⟨_, .ean8 a c st, .error k⟩
  · exact ⟨_, .ean8 a c ds, .ok _⟩

theorem runS2of5_ends (s : State) (cs : List Word) :
    ∃ w, s.Validated .standard2of5 w ∧ w.Ends (encS2of5 cs) (s.runS2of5 cs) := by
  unfold encS2of5 State.runS2of5
  split
  · exact ⟨_, .standard2of5 s.staging, .error _⟩
  · exact ⟨_, .standard2of5 _, .ok _⟩

theorem runI2of5_ends (s : State) (p : EmptyPolicy) (cs : List Word) :
    ∃ w, s.Validated .interleaved2of5 w ∧ w.Ends (encI2of5 p cs) (s.runI2of5 p cs) := by
  unfold encI2of5 State.runI2of5
  split
  · exact ⟨_, .interleaved2of5 s.acc s.chk s.staging, .error _⟩
  · split
    · exact ⟨_, .interleaved2of5 s.acc s.chk s.staging, .error _⟩
    · simp only [State.checkDigit_runChecksum]
      split
      · exact ⟨_, .interleaved2of5 _ _ _, .ok _⟩
      · exact ⟨_, .interleaved2of5 s.acc s.chk _, .ok _⟩

/-- Every command validates, then ends as ENCODE of its format and characters says (R230, R234). -/
theorem commandBody_ends (i : Instr) (s : State) (cs : List Word) :
    ∃ w, s.Validated i.format w ∧ w.Ends (encodeSymbol Config.i2of5Empty i.format cs) (commandBody i s cs) := by
  cases i with
  | code11 len => exact ⟨s, .code11, .ok _⟩
  | ean13 len => exact runEan13_ends s cs
  | ean8 len => exact runEan8_ends s cs
  | i2of5 len => exact runI2of5_ends s _ cs
  | s2of5 len => exact runS2of5_ends s cs

theorem exec_sameOutside {i : Instr} {s t : State} (h : exec i s = .next t) : s.SameOutside t := by
  obtain ⟨cs, -, rfl⟩ := exec_next h
  obtain ⟨w, hw, hends⟩ := commandBody_ends i s cs
  exact hw.sameOutside hends.sameOutside

theorem exec_seq_eq {i : Instr} {s t : State} (h : exec i s = .next t) : t.seq = .done := by
  obtain ⟨cs, -, rfl⟩ := exec_next h
  obtain ⟨w, -, hends⟩ := commandBody_ends i s cs
  exact hends.seq_eq

/-- A command that holds its characters reads exactly them (R55). -/
theorem State.Holds.readChars_eq {s : State} {cs : List Word} (h : s.Holds cs) {n : Nat} (hn : cs.length = n) :
    readChars s.mem 0 n = .ok cs :=
  (readChars_ok_iff s.mem 0 n cs).2 ⟨hn, fun j hj => by rw [Nat.zero_add]; exact h j hj⟩

/-- Settles O36: a command on the characters it holds ends as ENCODE says, and so shows its result. -/
theorem commandRefinesEncode : Obligations.CommandRefinesEncode := by
  unfold Obligations.CommandRefinesEncode
  intro i s cs hlen hholds
  obtain ⟨w, -, hends⟩ := commandBody_ends i s cs
  exact ⟨_, exec_of_readChars (hholds.readChars_eq hlen), hends.shows⟩

/-- Settles O43: validation writes only its format's working registers, and the end of a command none. -/
theorem commandFrame : Obligations.CommandFrame := by
  unfold Obligations.CommandFrame
  intro i s t h
  have hout := exec_sameOutside h
  have hmem : t.mem = s.mem := by
    obtain ⟨-, -, -, -, hmem, -⟩ := hout
    exact hmem
  obtain ⟨cs, -, rfl⟩ := exec_next h
  obtain ⟨w, hw, hends⟩ := commandBody_ends i s cs
  obtain ⟨hacc, hchk, hpar, hstaging⟩ := hends.work_eq
  rw [hacc, hchk, hpar, hstaging]
  exact ⟨hout, fun a => by rw [hmem], hw.checksum_eq, hw.par_eq, hw.staging_eq⟩

end Sys2Proof.Machine
end

section
/-! PROOFS. The registers CMD, STATUS and OUT_LEN at the host port, and the steps that change them or SEQ
(10_state.md R22 to R30, R33). -/

namespace Sys2Proof.Machine

/-! ## Accesses to the three registers -/

theorem takeOp_read_cmd (s : State) : takeOp (.read 0 4) s = .next (s.answer s.cmd) := rfl

theorem takeOp_read_status (s : State) : takeOp (.read 4 4) s = .next (s.answer s.status.toWord) := rfl

theorem takeOp_read_outLen (s : State) : takeOp (.read 8 4) s = .next (s.answer s.outLen) := rfl

theorem takeOp_write_status (s : State) (v : Word) : takeOp (.write 4 4 v) s = .next s := rfl

theorem takeOp_write_outLen (s : State) (v : Word) : takeOp (.write 8 4 v) s = .next s := rfl

/-- A running command loses a CMD write (R24, R284). -/
theorem takeOp_write_cmd_of_run {s : State} (h : s.seq = .run) (v : Word) : takeOp (.write 0 4 v) s = .next s :=
  congrArg Host.Outcome.next (if_pos h)

theorem takeOp_write_cmd_of_not_run {s : State} (h : s.seq ≠ .run) (v : Word) :
    takeOp (.write 0 4 v) s = .next (s.startCommand v) :=
  congrArg Host.Outcome.next (if_neg h)

/-- STATUS as a number (R26). -/
theorem Status.toNat_toWord (st : Status) :
    st.toWord.toNat = st.busy.toNat + 2 * st.done.toNat + 4 * st.code.toNat := by
  obtain ⟨busy, done, code⟩ := st
  revert busy done code
  decide

/-- Settles O7: the port drops both writes. -/
theorem readOnlyRegisterWritesIgnored : Obligations.ReadOnlyRegisterWritesIgnored := by
  unfold Obligations.ReadOnlyRegisterWritesIgnored
  exact fun s v => ⟨takeOp_write_status s v, takeOp_write_outLen s v⟩

/-- Settles O8: the answer is the STATUS word, a number made of the three fields. -/
theorem statusReadLayout : Obligations.StatusReadLayout := by
  unfold Obligations.StatusReadLayout
  exact fun s => ⟨s.status.toWord, takeOp_read_status s, s.status.toNat_toWord⟩

/-! ## What a step does to the block -/

theorem SameBlock.cmd_eq {s t : State} (h : SameBlock s t) : t.cmd = s.cmd := by
  obtain ⟨hcmd, -⟩ := h
  exact hcmd

theorem SameBlock.outLen_eq {s t : State} (h : SameBlock s t) : t.outLen = s.outLen := by
  obtain ⟨-, -, houtLen, -⟩ := h
  exact houtLen

theorem SameBlock.seq_eq {s t : State} (h : SameBlock s t) : t.seq = s.seq := by
  obtain ⟨-, -, -, hseq, -⟩ := h
  exact hseq

theorem State.SameOutside.cmd_eq {s t : State} (h : s.SameOutside t) : t.cmd = s.cmd := by
  obtain ⟨hcmd, -⟩ := h
  exact hcmd

/-- What a step makes of the block. -/
inductive BlockStep (s t : State) : Prop where
  /-- The running command completes (R27). -/
  | completes (run : s.seq = .run) (delay : s.delay = 0) (same : s.SameOutside t) (done : t.seq = .done)
  /-- Nothing. -/
  | stays (same : SameBlock s t)
  /-- A CMD write starts a command (R24). -/
  | starts (v : Word) (rest : List HostOp) (free : s.seq ≠ .run) (head : s.host = .write 0 4 v :: rest)
      (same : SameBlock (s.startCommand v) t)
  /-- CHAR_IN takes new contents (R54). -/
  | stores (m : Memory) (same : SameBlock { s with mem := m } t)
  /-- A reset (R280). -/
  | resets (rest : List HostOp) (head : s.host = .reset :: rest) (same : SameBlock s.resetBlock t)

theorem blockStep_of_step {s t : State} (h : step s = .next t) : BlockStep s t := by
  obtain ⟨hrun, hdelay, ⟨i, -, hexec⟩ | ⟨e, -, rfl⟩⟩ | ⟨d, -, ⟨-, rfl⟩ | ⟨op, rest, hhost, hop⟩⟩ := step_next h
  · exact .completes hrun hdelay (exec_sameOutside hexec) (exec_seq_eq hexec)
  · exact .completes hrun hdelay (by simp [State.SameOutside]) rfl
  · exact .stays (by simp [SameBlock])
  · obtain ⟨u, hu, hsame, -⟩ | ⟨v, rfl, hseq, hu⟩ | ⟨i, v, -, -, hu⟩ | ⟨rfl, hu⟩ | ⟨r, hu⟩ :=
        takeOp_cases op { s with delay := d, host := rest } <;> rw [hu] at hop <;> cases hop
    · exact .stays hsame
    · exact .starts v rest hseq hhost (by simp [SameBlock])
    · exact .stores (s.mem.setCharIn i v) (by simp [SameBlock])
    · exact .resets rest hhost (by simp [SameBlock, State.resetBlock])

/-- Settles O5: a write starts a command unless one runs, and no other step enters RUN. -/
theorem cmdWriteStartsCommand : Obligations.CmdWriteStartsCommand := by
  unfold Obligations.CmdWriteStartsCommand
  refine ⟨fun s v hrun => takeOp_write_cmd_of_run hrun v,
    fun s v hfree => ⟨_, _, takeOp_write_cmd_of_not_run hfree v⟩, fun s t hfree hstep ht => ?_⟩
  cases blockStep_of_step hstep with
  | completes hrun => exact absurd hrun hfree
  | stays hsame => exact absurd (hsame.seq_eq ▸ ht) hfree
  | starts v rest _ hhead => exact ⟨v, rest, hhead⟩
  | stores m hsame => exact absurd (hsame.seq_eq ▸ ht) hfree
  | resets rest hhead hsame => cases hsame.seq_eq ▸ ht

/-- Settles O6: of the things a step makes of the block, only a start and a reset touch CMD. -/
theorem cmdHoldsLastAcceptedWrite : Obligations.CmdHoldsLastAcceptedWrite := by
  unfold Obligations.CmdHoldsLastAcceptedWrite
  refine ⟨rfl, takeOp_read_cmd, fun s t hstep => ?_⟩
  cases blockStep_of_step hstep with
  | completes _ _ hsame => exact .inl hsame.cmd_eq
  | stays hsame => exact .inl hsame.cmd_eq
  | starts v rest hfree hhead hsame => exact .inr (.inl ⟨v, rest, hhead, hfree, hsame.cmd_eq⟩)
  | stores m hsame => exact .inl hsame.cmd_eq
  | resets rest hhead hsame => exact .inr (.inr ⟨rest, hhead, hsame.cmd_eq⟩)

/-- OUT_LEN under the invariant is the number of output bits of a success, and 0 without one (R29). -/
theorem State.Inv.outLen_toNat {s : State} (h : s.Inv) :
    s.outLen.toNat = if s.seq = .done ∧ s.status.code = 0 then s.bitOut.length else 0 := by
  split
  · rename_i hok
    exact h.output.outLen_eq hok.1 hok.2
  · rename_i hno
    rw [h.output.outLen_zero (not_and_or.1 hno)]
    rfl

/-- Settles O58: the invariant gives the value; a start and a reset clear OUT_LEN, and a completion sets it. -/
theorem outLenReadReturnsRegister : Obligations.OutLenReadReturnsRegister := by
  unfold Obligations.OutLenReadReturnsRegister
  refine ⟨takeOp_read_outLen, fun s h => h.outLen_toNat, fun s t hstep => ?_⟩
  cases blockStep_of_step hstep with
  | completes hrun _ _ hdone => exact .inr (.inr (.inr ⟨hrun, hdone⟩))
  | stays hsame => exact .inl hsame.outLen_eq
  | starts v rest hfree hhead hsame => exact .inr (.inl ⟨hsame.outLen_eq, hfree, v, rest, hhead⟩)
  | stores m hsame => exact .inl hsame.outLen_eq
  | resets rest hhead hsame => exact .inr (.inr (.inl ⟨hsame.outLen_eq, rest, hhead⟩))

/-- Settles O9: SEQ moves as the block's part of a step says, and the invariant, which a step keeps, ties STATUS to it. -/
theorem sequencerTransitions : Obligations.SequencerTransitions := by
  unfold Obligations.SequencerTransitions
  intro s t hinv hstep
  have hstatus := (stepKeepsBlockInvariant s t hinv hstep).status
  refine ⟨?_, hstatus.busy_iff, hstatus.done_iff⟩
  cases blockStep_of_step hstep with
  | completes hrun hdelay _ hdone => exact .inr (.inr (.inl ⟨hrun, hdone, hdelay⟩))
  | stays hsame => exact .inl hsame.seq_eq
  | starts v rest hfree hhead hsame => exact .inr (.inl ⟨hfree, hsame.seq_eq, v, rest, hhead⟩)
  | stores m hsame => exact .inl hsame.seq_eq
  | resets rest hhead hsame => exact .inr (.inr (.inr ⟨hsame.seq_eq, rest, hhead⟩))

/-! ## An illegal command word -/

/-- A run goes on from the state its first step gives. -/
theorem run_succ_of_step {s u : State} (h : step s = .next u) (k : Nat) : core.run (k + 1) s = core.run k u := by
  have hcore : core.step s = .next u := h
  simp only [Host.Core.run, hcore]

/-- With no command running, a step takes the host's next statement. -/
theorem step_of_not_run {s : State} (h : s.seq ≠ .run) {op : HostOp} {rest : List HostOp} (hhost : s.host = op :: rest) :
    step s = takeOp op { s with host := rest } := by
  simp [step_eq, turnState, hostTurn, h, hhost]

theorem latched_startCommand (s : State) (v : Word) : (s.startCommand v).latched = v := joinFields_fields v

/-- The word of an illegal command decodes to a rejection (R85). -/
theorem decode_of_not_legal {v : Word} (h : legal v = false) : ∃ e, decode v = .error e := by
  unfold legal at h
  split at h
  · cases h
  · rename_i e he
    exact ⟨e, he⟩

/-- An illegal word completes in the step after its CMD write (R86, log entry 13). -/
theorem step_startCommand_of_not_legal (s : State) {v : Word} (h : legal v = false) :
    step (s.startCommand v) = .next ((s.startCommand v).complete .illegal) := by
  obtain ⟨e, he⟩ := decode_of_not_legal h
  have hdelay : (s.startCommand v).delay = 0 := by simp [commandDelay, h]
  rw [step_eq, if_pos ⟨rfl, hdelay⟩, runCommand, latched_startCommand, he]

/-- Settles O38: one step starts the word and the next completes it. -/
theorem illegalCommandCompletes : Obligations.IllegalCommandCompletes := by
  unfold Obligations.IllegalCommandCompletes
  intro s v rest hfree hhost hillegal
  have hstart : step s = .next (State.startCommand { s with host := rest } v) :=
    (step_of_not_run hfree hhost).trans (takeOp_write_cmd_of_not_run (s := { s with host := rest }) hfree v)
  refine ⟨(State.startCommand { s with host := rest } v).complete .illegal, ?_, rfl, rfl, rfl, rfl, rfl, rfl, rfl,
    fun _ => rfl, rfl, rfl, rfl, rfl, rfl⟩
  rw [run_succ_of_step hstart, run_succ_of_step (step_startCommand_of_not_legal _ hillegal)]
  rfl

end Sys2Proof.Machine
end

section
/-! PROOFS. The window map and the host's accesses to CHAR_IN and BIT_OUT (20_memory.md R51 to R54, R58, R59, R65). -/

namespace Sys2Proof.Machine

/-! ## The window map -/

/-- Word `w` of BIT_OUT exists when its first bit does (R51). -/
theorem lt_outWords_iff (w : Nat) : w < Config.outWords ↔ 32 * w < Config.maxBits := by
  simp only [Config.outWords]
  omega

theorem regionOf_charInEntry {i : Nat} (hi : i < Config.maxChars) : regionOf (0x40000 + 4 * i) = .charIn i := by
  have := Config.maxChars_bounds
  have hentry : (0x40000 + 4 * i - 0x40000) / 4 = i := by omega
  unfold regionOf
  rw [if_neg (by simp only [windowSize]; omega), if_neg (by omega), if_neg (by omega), if_neg (by omega),
    if_neg (by omega), if_pos (by omega), hentry, if_pos hi]

theorem regionOf_bitOutWord {w : Nat} (hw : w < Config.outWords) : regionOf (0x80000 + 4 * w) = .bitOut w := by
  have := Config.maxChars_bounds
  have hbits := (lt_outWords_iff w).1 hw
  have hinside : ¬ windowSize ≤ 0x80000 + 4 * w := by
    simp only [Config.maxBits] at hbits
    simp only [windowSize]
    omega
  have hword : (0x80000 + 4 * w - 0x80000) / 4 = w := by omega
  unfold regionOf
  rw [if_neg hinside, if_neg (by omega), if_neg (by omega),
    if_neg (by omega), if_neg (by omega), if_neg (by omega), hword, if_pos hbits]

theorem regionOf_reserved {off : Nat} (h : ReservedOffset off) : regionOf off = .reserved := by
  have := Config.maxChars_bounds
  have hword := lt_outWords_iff ((off - 0x80000) / 4)
  unfold ReservedOffset at h
  unfold regionOf windowSize
  rw [if_neg (by omega), if_neg (by omega), if_neg (by omega), if_neg (by omega)]
  obtain ⟨-, hregs⟩ | ⟨hlo, hchars⟩ | ⟨hlo, -⟩ := h
  · exact if_pos hregs
  · rw [if_neg (by omega), if_pos hchars, if_neg (by omega)]
  · rw [if_neg (by omega), if_neg (by omega), if_neg (by omega)]

/-- Settles O13: the map at each entry and word, and the ends at MAX_CHARS = 65535. -/
theorem windowMapFits : Obligations.WindowMapFits := by
  unfold Obligations.WindowMapFits
  have := Config.maxChars_bounds
  refine ⟨fun i => regionOf_charInEntry, fun w => regionOf_bitOutWord, ?_⟩
  simp only [Config.outWords, Config.maxBits]
  omega

/-! ## Bus errors -/

theorem malformed_iff (off width : Nat) :
    malformed off width = true ↔ off < windowSize ∧ (width ≠ 4 ∨ off % 4 ≠ 0) := by
  simp only [malformed, Bool.and_eq_true, Bool.or_eq_true, decide_eq_true_eq]

theorem not_malformed_of_aligned {off : Nat} (h : off % 4 = 0) : ¬ malformed off 4 = true := by
  simp [malformed_iff, h]

theorem takeOp_of_malformed {off width : Nat} (h : malformed off width = true) (v : Word) (s : State) :
    takeOp (.read off width) s = .fault .busError ∧ takeOp (.write off width v) s = .fault .busError := by
  simp [takeOp, memRead, memWrite, h]

theorem takeOp_of_reserved {off : Nat} (h : ReservedOffset off) (width : Nat) (v : Word) (s : State) :
    takeOp (.read off width) s = .fault .busError ∧ takeOp (.write off width v) s = .fault .busError := by
  simp [takeOp, memRead, memWrite, regionOf_reserved h]

/-- BIT_OUT is read-only (R51, R53). -/
theorem takeOp_write_bitOut {w : Nat} (hw : w < Config.outWords) (v : Word) (s : State) :
    takeOp (.write (0x80000 + 4 * w) 4 v) s = .fault .busError := by
  simp [takeOp, memWrite, regionOf_bitOutWord hw]

/-- Settles O14: the access is malformed, or its offset maps to nothing, or it writes BIT_OUT. -/
theorem busErrorAccesses : Obligations.BusErrorAccesses := by
  unfold Obligations.BusErrorAccesses
  refine ⟨fun s off width v hoff hbad => ?_, fun s w v hw => takeOp_write_bitOut hw v s⟩
  obtain hwidth | halign | hres := hbad
  · exact takeOp_of_malformed ((malformed_iff off width).2 ⟨hoff, .inl hwidth⟩) v s
  · exact takeOp_of_malformed ((malformed_iff off width).2 ⟨hoff, .inr halign⟩) v s
  · exact takeOp_of_reserved hres width v s

/-! ## Accesses to the buffers -/

/-- A written entry reads as its word (R54). -/
theorem takeOp_read_charIn_of_written {s : State} {i : Nat} {v : Word} (hi : i < Config.maxChars)
    (h : s.mem.charIn i = some v) : takeOp (.read (0x40000 + 4 * i) 4) s = .next (s.answer v) := by
  have hok : ¬ malformed (0x40000 + 4 * i) 4 = true := not_malformed_of_aligned (by omega)
  simp only [takeOp, memRead, if_neg hok, regionOf_charInEntry hi, h]

/-- An entry not written since reset reads as a free word (R54, log entry 7). -/
theorem takeOp_read_charIn_of_unwritten {s : State} {i : Nat} (hi : i < Config.maxChars)
    (h : s.mem.charIn i = none) : takeOp (.read (0x40000 + 4 * i) 4) s = .next s.answerFree := by
  have hok : ¬ malformed (0x40000 + 4 * i) 4 = true := not_malformed_of_aligned (by omega)
  simp only [takeOp, memRead, if_neg hok, regionOf_charInEntry hi, h]

theorem takeOp_write_charIn {i : Nat} (hi : i < Config.maxChars) (v : Word) (s : State) :
    takeOp (.write (0x40000 + 4 * i) 4 v) s = writeCharIn i v s := by
  have hok : ¬ malformed (0x40000 + 4 * i) 4 = true := not_malformed_of_aligned (by omega)
  simp only [takeOp, memWrite, if_neg hok, regionOf_charInEntry hi]

theorem takeOp_read_bitOut {w : Nat} (hw : w < Config.outWords) (s : State) :
    takeOp (.read (0x80000 + 4 * w) 4) s =
      if s.seq = .run then .next s.answerFree else .next (s.answer (s.outWord w)) := by
  have hok : ¬ malformed (0x80000 + 4 * w) 4 = true := not_malformed_of_aligned (by omega)
  simp only [takeOp, memRead, if_neg hok, regionOf_bitOutWord hw]

/-- A mapped word answers its contents, or a free word where the spec gives none (R52, R54, R286). -/
theorem takeOp_read_of_mapped (s : State) {off : Nat} (h : MappedOffset off) :
    (∃ v, takeOp (.read off 4) s = .next (s.answer v)) ∨ takeOp (.read off 4) s = .next s.answerFree := by
  obtain rfl | rfl | rfl | ⟨i, hi, rfl⟩ | ⟨w, hw, rfl⟩ := h
  · exact .inl ⟨_, takeOp_read_cmd s⟩
  · exact .inl ⟨_, takeOp_read_status s⟩
  · exact .inl ⟨_, takeOp_read_outLen s⟩
  · cases hmem : s.mem.charIn i with
    | some v => exact .inl ⟨v, takeOp_read_charIn_of_written hi hmem⟩
    | none => exact .inr (takeOp_read_charIn_of_unwritten hi hmem)
  · rw [takeOp_read_bitOut hw]
    split
    · exact .inr rfl
    · exact .inl ⟨_, rfl⟩

/-- Settles O15: either answer touches only the host's answers and the draw count. -/
theorem mappedReadsHaveNoSideEffect : Obligations.MappedReadsHaveNoSideEffect := by
  unfold Obligations.MappedReadsHaveNoSideEffect
  intro s off hoff
  obtain ⟨v, hread⟩ | hread := takeOp_read_of_mapped s hoff
  · exact ⟨s.answer v, v, hread, by simp [SameBlock], rfl, rfl, rfl⟩
  · exact ⟨s.answerFree, Config.freeWord s.draws, hread, by simp [SameBlock], rfl, rfl, rfl⟩

/-- With no command running a character write takes effect (R54). -/
theorem takeOp_write_charIn_of_not_run {s : State} {i : Nat} (hi : i < Config.maxChars) (hfree : s.seq ≠ .run)
    (v : Word) : takeOp (.write (0x40000 + 4 * i) 4 v) s = .next { s with mem := s.mem.setCharIn i v } := by
  rw [takeOp_write_charIn hi, writeCharIn, if_neg fun h => hfree h.1]

/-- Settles O16: the stored entry is the written one, and a read answers what it holds. -/
theorem charInStoresAndReads : Obligations.CharInStoresAndReads := by
  unfold Obligations.CharInStoresAndReads
  refine ⟨fun s i v hi hfree => ?_, fun s i v hi => takeOp_read_charIn_of_written hi,
    fun s i hi => takeOp_read_charIn_of_unwritten hi⟩
  have hself : (s.mem.setCharIn i v).charIn i = some v := by rw [Memory.charIn_setCharIn, if_pos rfl]
  refine ⟨_, takeOp_write_charIn_of_not_run hi hfree v, hself, fun j hj => ?_, rfl,
    takeOp_read_charIn_of_written hi hself⟩
  exact (Memory.charIn_setCharIn s.mem i j v).trans (if_neg hj)

/-- Settles O18: the word read packs 32 output bits, bit j & 31 of word j >> 5 being output bit j. -/
theorem bitOutPacking : Obligations.BitOutPacking := by
  unfold Obligations.BitOutPacking
  intro s j hj hfree
  have hword : j >>> 5 = j / 32 := Nat.shiftRight_eq_div_pow j 5
  have hbit : j &&& 31 = j % 32 := Nat.and_two_pow_sub_one_eq_mod j 5
  have hw : j / 32 < Config.outWords := (lt_outWords_iff _).2 (by omega)
  rw [hword, hbit]
  refine ⟨s.outWord (j / 32), (takeOp_read_bitOut hw s).trans (if_neg hfree), ?_⟩
  rw [State.getLsbD_outWord s _ _ (Nat.mod_lt j (by decide)), Nat.div_add_mod]

end Sys2Proof.Machine
end

section
/-! PROOFS. Which steps change CHAR_IN, and the commands that meet an entry not written (20_memory.md R54 to R56). -/

namespace Sys2Proof.Machine

/-- A host write leaves CHAR_IN, or it is a word write to one entry, which it stores (R52, R54). -/
theorem memWrite_mem {off width : Nat} {v : Word} {s t : State} (h : memWrite off width v s = .next t) :
    t.mem = s.mem ∨ ∃ i, HostOp.write off width v = stmtWRC i v ∧ t.mem = s.mem.setCharIn i v := by
  unfold memWrite at h
  split at h
  · cases h
  · rename_i hok
    split at h
    · cases h
      unfold writeCmd
      split <;> exact .inl rfl
    · cases h
      exact .inl rfl
    · cases h
      exact .inl rfl
    · rename_i i hreg
      obtain ⟨-, hi, hlo, hhi⟩ := regionOf_charIn hreg
      have hword : width = 4 ∧ off = charInOffset i := by
        simp only [malformed_iff, windowSize] at hok
        simp only [charInOffset]
        omega
      obtain ⟨rfl, rfl⟩ := hword
      unfold writeCharIn at h
      split at h
      · cases h
      · cases h
        exact .inr ⟨i, rfl, rfl⟩
    all_goals cases h

/-- A host statement leaves CHAR_IN but for a character write and a reset. -/
theorem takeOp_mem {op : HostOp} {s t : State} (h : takeOp op s = .next t) :
    t.mem = s.mem ∨ (∃ i v, op = stmtWRC i v ∧ t.mem = s.mem.setCharIn i v) ∨ op = .reset := by
  cases op with
  | read off width =>
    obtain ⟨v, hread⟩ | hread | ⟨r, hread⟩ := memRead_cases off width s <;>
      cases hread.symm.trans h <;> exact .inl rfl
  | write off width v =>
    obtain hmem | ⟨i, hop, hmem⟩ := memWrite_mem h
    · exact .inl hmem
    · exact .inr (.inl ⟨i, v, hop, hmem⟩)
  | poll =>
    cases h
    unfold pollStatus
    split <;> exact .inl rfl
  | readOut =>
    cases h
    unfold expandReadOut
    split <;> exact .inl rfl
  | reset => exact .inr (.inr rfl)

theorem State.SameOutside.mem_eq {s t : State} (h : s.SameOutside t) : t.mem = s.mem := by
  obtain ⟨-, -, -, -, hmem, -⟩ := h
  exact hmem

/-- A step leaves CHAR_IN unless it takes a character write or a reset: the block writes none (R56). -/
theorem step_mem {s t : State} (h : step s = .next t) :
    t.mem = s.mem ∨ (∃ i v rest, s.host = stmtWRC i v :: rest ∧ t.mem = s.mem.setCharIn i v) ∨
      ∃ rest, s.host = .reset :: rest := by
  obtain ⟨-, -, ⟨i, -, hexec⟩ | ⟨e, -, rfl⟩⟩ | ⟨d, -, ⟨-, rfl⟩ | ⟨op, rest, hhost, hop⟩⟩ := step_next h
  · exact .inl (exec_sameOutside hexec).mem_eq
  · exact .inl rfl
  · exact .inl rfl
  · obtain hmem | ⟨i, v, rfl, hmem⟩ | rfl := takeOp_mem hop
    · exact .inl hmem
    · exact .inr (.inl ⟨i, v, rest, hhost, hmem⟩)
    · exact .inr (.inr ⟨rest, hhost⟩)

/-- Settles O17: of the steps that store a character, only one to the entry itself changes it. -/
theorem charInPersists : Obligations.CharInPersists := by
  unfold Obligations.CharInPersists
  intro s t i hstep
  obtain hmem | ⟨k, v, rest, hhost, hmem⟩ | hreset := step_mem hstep
  · exact .inl (by rw [hmem])
  · rw [hmem, Memory.charIn_setCharIn]
    by_cases hik : i = k
    · subst hik
      exact .inr (.inl ⟨v, rest, hhost, if_pos rfl⟩)
    · exact .inl (if_neg hik)
  · exact .inr (.inr hreset)

/-- A command stops at the entry its operand read stops at (R55). -/
theorem exec_of_readChars_error {i : Instr} {s : State} {k : Nat} (h : readChars s.mem 0 i.len.toNat = .error k) :
    exec i s = .fault (.unwrittenInput k) := by
  rw [exec_eq_withChars, withChars, h]

/-- Settles O37: the operand read stops at the first entry not written. -/
theorem unwrittenInputStops : Obligations.UnwrittenInputStops := by
  unfold Obligations.UnwrittenInputStops
  intro i s k hk hnone hbelow
  exact exec_of_readChars_error
    ((readChars_error_iff s.mem 0 _ k).2 ⟨Nat.zero_le k, by omega, hnone, fun j _ => hbelow j⟩)

end Sys2Proof.Machine
end

section
/-! PROOFS. BIT_OUT under an Append, after an error and after a success (20_memory.md R60, R62; 46_dispatch.md R235;
60_exceptions.md R250, R257). -/

namespace Sys2Proof.Machine

/-- An output bit depends on the held bit at its place and on the draw behind the held bits. -/
theorem State.outBit_congr {s t : State} {j : Nat} (hbit : t.bitOut[j]? = s.bitOut[j]?)
    (hdraw : t.outDraw = s.outDraw) : t.outBit j = s.outBit j := by
  simp only [State.outBit, hbit, hdraw]

/-- Below the write pointer an Append keeps every output bit (R60). -/
theorem State.outBit_append_of_lt (s : State) (p : Bits) {j : Nat} (hw : s.wptr ≤ s.bitOut.length) (hj : j < s.wptr) :
    (s.append p).outBit j = s.outBit j := by
  refine State.outBit_congr ?_ rfl
  rw [State.append_bitOut, List.getElem?_append_left (by rw [List.length_take]; omega), List.getElem?_take_of_lt hj]

/-- From the write pointer on an Append writes its own bits (R60). -/
theorem State.outBit_append_wptr_add (s : State) (p : Bits) {k : Nat} (hw : s.wptr ≤ s.bitOut.length)
    (hk : k < p.length) : (s.append p).outBit (s.wptr + k) = p[k] := by
  have hlen : (s.bitOut.take s.wptr).length = s.wptr := List.length_take_of_le hw
  rw [State.outBit_of_lt _ _ (by rw [State.append_bitOut, List.length_append, hlen]; omega)]
  simp [hlen]

/-- Settles O19: the held bits become those below the pointer, then the new ones. -/
theorem appendExtendsOutput : Obligations.AppendExtendsOutput := by
  unfold Obligations.AppendExtendsOutput
  intro s p hw
  exact ⟨rfl, fun k => s.outBit_append_wptr_add p hw, fun j => s.outBit_append_of_lt p hw⟩

/-- Validation writes working registers only (R32). -/
theorem State.Validated.eq_withWork {s w : State} {f : Format} (h : s.Validated f w) :
    ∃ a c p st, w = withWork s a c p st := by
  cases h <;> exact ⟨_, _, _, _, rfl⟩

/-- A command that answers a state read LEN characters and, its working registers apart, ends from the state it started in as
ENCODE of them says (R234). -/
theorem exec_ends {i : Instr} {s t : State} (h : exec i s = .next t) :
    ∃ cs a c p st, cs.length = i.len.toNat ∧
      (withWork s a c p st).Ends (encodeSymbol Config.i2of5Empty i.format cs) t := by
  obtain ⟨cs, hread, rfl⟩ := exec_next h
  obtain ⟨hlen, -⟩ := (readChars_ok_iff s.mem 0 i.len.toNat cs).1 hread
  obtain ⟨w, hw, hends⟩ := commandBody_ends i s cs
  obtain ⟨a, c, p, st, rfl⟩ := hw.eq_withWork
  exact ⟨cs, a, c, p, st, hlen, hends⟩

/-- Settles O42: a nonzero CODE comes of an error, whose completion starts no generation phase. -/
theorem failedCommandWritesNoBit : Obligations.FailedCommandWritesNoBit := by
  unfold Obligations.FailedCommandWritesNoBit
  intro i s t h hcode
  obtain ⟨cs, a, c, p, st, -, hends⟩ := exec_ends h
  generalize encodeSymbol Config.i2of5Empty i.format cs = res at hends
  cases hends with
  | error k => exact ⟨rfl, rfl, rfl, rfl, rfl, rfl, fun j => State.outBit_congr rfl rfl⟩
  | ok ps => exact absurd rfl hcode

/-- Settles O45: CODE 0 comes of a success, which counts the symbol's bits, at most MAX_BITS, in OUT_LEN and takes a new draw
for the rest. -/
theorem tailBitsUnspecified : Obligations.TailBitsUnspecified := by
  unfold Obligations.TailBitsUnspecified
  intro i s t hwf h hcode
  obtain ⟨cs, a, c, p, st, hlen, hends⟩ := exec_ends h
  generalize hres : encodeSymbol Config.i2of5Empty i.format cs = res at hends
  cases hends with
  | error k => cases (completionCode_eq_zero_iff (.err k)).1 hcode
  | ok ps =>
    have hchars : cs.length ≤ Config.maxChars := hlen.trans_le ((Instr.wfWith_iff _ i).1 hwf)
    have hbits : ps.flatten.length ≤ Config.maxBits := le_maxBits_of_length_le (encodeSymbol_length_le hres) hchars
    have houtLen : ((withWork s a c p st).generate ps).outLen.toNat = ps.flatten.length := by
      rw [State.generate_eq]
      exact completionLength_ok_toNat hbits
    rw [houtLen, State.generate_eq]
    exact ⟨rfl, fun j hj => State.outBit_of_ge _ j hj⟩

end Sys2Proof.Machine
end

section
/-! PROOFS. The blocks of one platform do not meet (20_memory.md R70; 60_exceptions.md R264). -/

namespace Sys2Proof.Machine

theorem platformStep_of_none {p : List State} {k : Nat} (h : p[k]? = none) : platformStep p k = .next p := by
  simp only [platformStep, h]

theorem platformStep_of_step {p : List State} {k : Nat} {s t : State} (h : p[k]? = some s) (hstep : step s = .next t) :
    platformStep p k = .next (p.set k t) := by
  simp only [platformStep, h, hstep]

/-- Everything a step of the platform can do: nothing where there is no block `k`, otherwise that block's next state takes its
place. -/
theorem platformStep_next {p q : List State} {k : Nat} (h : platformStep p k = .next q) :
    (p[k]? = none ∧ q = p) ∨ ∃ s t, p[k]? = some s ∧ step s = .next t ∧ q = p.set k t := by
  cases hk : p[k]? with
  | none =>
    rw [platformStep_of_none hk] at h
    cases h
    exact .inl ⟨rfl, rfl⟩
  | some s =>
    cases hstep : step s with
    | next t =>
      rw [platformStep_of_step hk hstep] at h
      cases h
      exact .inr ⟨s, t, rfl, hstep, rfl⟩
    | fault r => simp [platformStep, hk, hstep] at h
    | refused r => simp [platformStep, hk, hstep] at h

/-- Settles O57: a step reads block `k` alone and replaces it alone. -/
theorem instancesAreIndependent : Obligations.InstancesAreIndependent := by
  unfold Obligations.InstancesAreIndependent
  refine ⟨fun p q k j h hjk => ?_, fun p p' q k hpp h => ?_⟩
  · obtain ⟨-, rfl⟩ | ⟨s, t, -, -, rfl⟩ := platformStep_next h
    · rfl
    · exact List.getElem?_set_ne hjk.symm
  · obtain ⟨hnone, rfl⟩ | ⟨s, t, hk, hstep, rfl⟩ := platformStep_next h
    · exact ⟨p', platformStep_of_none (hpp ▸ hnone), hpp.symm⟩
    · refine ⟨p'.set k t, platformStep_of_step (hpp ▸ hk) hstep, ?_⟩
      rw [List.getElem?_set_self', List.getElem?_set_self', hpp]

end Sys2Proof.Machine
end

section
/-! PROOFS. The command word: what decodes, which words are legal and which number a command's word is
(30_encoding.md R81 to R88, R92, R94). -/

namespace Sys2Proof

/-! ## Decode and encode -/

/-- A word decodes to a command exactly when its fields are the command's and LEN fits the buffer (R88). -/
theorem decodeWith_eq_ok_iff (m : Nat) (v : Word) (i : Instr) :
    decodeWith m v = .ok i ↔
      fmtField v = fmtOf i.format ∧ rsvField v = 0 ∧ lenField v = i.len ∧ i.len.toNat ≤ m := by
  constructor
  · intro h
    unfold decodeWith at h
    split at h
    · cases h
    · rename_i f hf
      split_ifs at h with hrsv hlen
      cases h
      rw [Format.command_format, Format.command_len]
      exact ⟨(formatOf_eq_some_iff _ f).1 hf, not_not.1 hrsv, rfl, not_lt.1 hlen⟩
  · rintro ⟨hfmt, hrsv, hlen, hm⟩
    simp [decodeWith, hfmt, hrsv, hlen, hm]

/-- The word of a command is the one with its FMT value, RSV = 0 and its LEN (R81). -/
theorem encode_eq_iff (i : Instr) (v : Word) :
    encode i = v ↔ fmtField v = fmtOf i.format ∧ rsvField v = 0 ∧ lenField v = i.len := by
  constructor
  · rintro rfl
    simp [encode]
  · rintro ⟨hfmt, hrsv, hlen⟩
    rw [encode, ← hfmt, ← hrsv, ← hlen, joinFields_fields]

/-- The words that decode are those of the well-formed commands, each to its own (R88, R92). -/
theorem decodeWith_eq_ok_iff_encode (m : Nat) (v : Word) (i : Instr) :
    decodeWith m v = .ok i ↔ i.wfWith m = true ∧ encode i = v := by
  rw [decodeWith_eq_ok_iff, encode_eq_iff, Instr.wfWith_iff]
  tauto

/-- Settles O1: both directions of `decodeWith_eq_ok_iff_encode`. -/
theorem decodeEncodeAgree : Obligations.DecodeEncodeAgree := by
  unfold Obligations.DecodeEncodeAgree
  exact ⟨fun m i hwf => (decodeWith_eq_ok_iff_encode m _ i).2 ⟨hwf, rfl⟩,
    fun m v i => (decodeWith_eq_ok_iff_encode m v i).1⟩

/-! ## The word as a number -/

/-- A word of given fields as a number (R81). -/
theorem toNat_joinFields (len : BitVec 16) (rsv : BitVec 13) (fmt : BitVec 3) :
    (joinFields len rsv fmt).toNat = len.toNat * 2 ^ 16 + rsv.toNat * 2 ^ 3 + fmt.toNat := by
  rw [joinFields, BitVec.toNat_append, BitVec.toNat_append, ← Nat.shiftLeft_add_eq_or_of_lt rsv.isLt,
    ← Nat.shiftLeft_add_eq_or_of_lt fmt.isLt, Nat.shiftLeft_eq, Nat.shiftLeft_eq]
  omega

/-- Settles O2: the command's word has RSV = 0. -/
theorem commandWordNumber : Obligations.CommandWordNumber := by
  unfold Obligations.CommandWordNumber
  intro i
  simp [encode, toNat_joinFields]

/-! ## Legal words -/

theorem toNat_fmtField (v : Word) : (fmtField v).toNat = v.toNat % 8 := by
  simp [fmtField]

theorem toNat_rsvField (v : Word) : (rsvField v).toNat = v.toNat / 8 % 2 ^ 13 := by
  simp [rsvField, Nat.shiftRight_eq_div_pow]

theorem toNat_lenField (v : Word) : (lenField v).toNat = v.toNat / 2 ^ 16 := by
  have := v.isLt
  simp only [lenField, BitVec.extractLsb'_toNat, Nat.shiftRight_eq_div_pow]
  omega

/-- A word is legal exactly when it decodes (R85, R88). -/
theorem legal_iff_exists (v : Word) : legal v = true ↔ ∃ i, decode v = .ok i := by
  unfold legal
  cases decode v <;> simp

/-- R85's three conditions, on the fields. -/
theorem legal_iff_fields (v : Word) :
    legal v = true ↔ (fmtField v).toNat ≤ 4 ∧ rsvField v = 0 ∧ (lenField v).toNat ≤ Config.maxChars := by
  rw [legal_iff_exists]
  constructor
  · rintro ⟨i, hi⟩
    obtain ⟨hfmt, hrsv, hlen, hm⟩ := (decodeWith_eq_ok_iff _ v i).1 hi
    refine ⟨?_, hrsv, hlen ▸ hm⟩
    rw [hfmt]
    cases i.format <;> decide
  · rintro ⟨hfmt, hrsv, hlen⟩
    obtain ⟨f, hf⟩ := Option.ne_none_iff_exists'.1 (mt (formatOf_eq_none_iff (fmtField v)).1 (not_lt.2 hfmt))
    refine ⟨f.command (lenField v), (decodeWith_eq_ok_iff _ v _).2 ?_⟩
    rw [Format.command_format, Format.command_len]
    exact ⟨(formatOf_eq_some_iff _ f).1 hf, hrsv, rfl, hlen⟩

/-- Settles O3: the three fields as numbers. -/
theorem legalExactlyWhen : Obligations.LegalExactlyWhen := by
  unfold Obligations.LegalExactlyWhen
  intro v
  have hrsv : rsvField v = 0 ↔ (rsvField v).toNat = 0 := BitVec.toNat_inj.symm
  rw [legal_iff_fields, hrsv, toNat_fmtField, toNat_rsvField, toNat_lenField]

/-- Settles O4: MAX_CHARS is 13 more than a number (R5), so the decoder computes on words of LEN at most 13. -/
theorem sampleWordsDecode : Obligations.SampleWordsDecode := by
  unfold Obligations.SampleWordsDecode
  decide

end Sys2Proof
end

section
/-! PROOFS. The host statements WRS and POLL (30_encoding.md R93, R95; 70_reset_and_hazards.md R286). -/

namespace Sys2Proof.Machine

/-! ## WRS -/

/-- Writing characters from entry `i` on takes one step each, fills those entries and changes nothing else (R93, R95). -/
theorem run_writeCharsFrom {cs : List Word} {rest : List HostOp} {i : Nat} {s : State} (hfree : s.seq ≠ .run)
    (hfit : i + cs.length ≤ Config.maxChars) (hhost : s.host = writeCharsFrom i cs ++ rest) :
    ∃ m : Memory, core.run cs.length s = .next { s with mem := m, host := rest } ∧
      ∀ j, m.charIn j = if i ≤ j ∧ j < i + cs.length then cs[j - i]? else s.mem.charIn j := by
  induction cs generalizing i s with
  | nil =>
    refine ⟨s.mem, ?_, fun j => (if_neg (by simp)).symm⟩
    change s.host = rest at hhost
    subst hhost
    rfl
  | cons c cs ih =>
    rw [List.length_cons] at hfit
    have hi : i < Config.maxChars := by omega
    have hstep : step s = .next { s with host := writeCharsFrom (i + 1) cs ++ rest, mem := s.mem.setCharIn i c } :=
      (step_of_not_run hfree hhost).trans
        (takeOp_write_charIn_of_not_run (s := { s with host := writeCharsFrom (i + 1) cs ++ rest }) hi hfree c)
    obtain ⟨m, hrun, hm⟩ := ih (i := i + 1)
      (s := { s with host := writeCharsFrom (i + 1) cs ++ rest, mem := s.mem.setCharIn i c }) hfree (by omega) rfl
    refine ⟨m, (run_succ_of_step hstep _).trans hrun, fun j => ?_⟩
    rw [hm j, Memory.charIn_setCharIn]
    obtain hlt | rfl | hgt := lt_trichotomy j i
    · rw [if_neg (by omega), if_neg (by omega), if_neg (by omega)]
    · simp
    · have hin : i + 1 ≤ j ∧ j < i + 1 + cs.length ↔ i ≤ j ∧ j < i + (c :: cs).length := by
        rw [List.length_cons]
        omega
      rw [if_congr hin rfl (if_neg (by omega)), show j - i = j - (i + 1) + 1 by omega, List.getElem?_cons_succ]

/-- Settles O56: the writes from entry 0 on. -/
theorem writeStringStoresCharacters : Obligations.WriteStringStoresCharacters := by
  unfold Obligations.WriteStringStoresCharacters
  intro s cs rest hfree hfit hhost
  obtain ⟨m, hrun, hm⟩ := run_writeCharsFrom (i := 0) hfree (by omega) hhost
  refine ⟨_, hrun, fun j hj => ?_, fun j hj => ?_, rfl⟩
  · rw [hm j, if_pos (by omega), Nat.sub_zero, List.getElem?_eq_getElem hj]
  · rw [hm j, if_neg (by omega)]

/-! ## The completion of a running command -/

theorem State.Ends.status_eq {w u : State} {res : Except EncodingError Bits} (h : w.Ends res u) :
    ∃ c, u.status = statusCompleted c := by
  cases h with
  | error k => exact ⟨.err k, rfl⟩
  | ok ps => exact ⟨.ok, rfl⟩

/-- With no host turn left a running command completes, the characters of a legal one being written (R234, R27). -/
theorem step_completes {s : State} (hrun : s.seq = .run) (hdelay : s.delay = 0)
    (hchars : legal s.latched = true → ∃ cs : List Word, cs.length = s.lenL.toNat ∧ s.Holds cs) :
    ∃ t c, step s = .next t ∧ s.SameOutside t ∧ t.seq = .done ∧ t.status = statusCompleted c := by
  rw [step_eq, if_pos ⟨hrun, hdelay⟩]
  obtain ⟨i, hdec, hcmd⟩ | ⟨e, -, hcmd⟩ := runCommand_cases s <;> rw [hcmd]
  · obtain ⟨-, -, hlen, -⟩ := (decodeWith_eq_ok_iff _ _ i).1 hdec
    rw [State.latched, lenField_joinFields] at hlen
    obtain ⟨cs, hcs, hholds⟩ := hchars ((legal_iff_exists _).2 ⟨i, hdec⟩)
    have hexec := exec_of_readChars (hholds.readChars_eq (hlen ▸ hcs))
    obtain ⟨w, -, hends⟩ := commandBody_ends i s cs
    obtain ⟨c, hc⟩ := hends.status_eq
    exact ⟨_, c, hexec, exec_sameOutside hexec, hends.seq_eq, hc⟩
  · exact ⟨_, .illegal, rfl, by simp [State.SameOutside], rfl, rfl⟩

/-! ## POLL -/

/-- While a command runs the status registers are as its start left them (R24, R26, R33). -/
theorem State.StatusInv.status_of_run {s : State} (h : s.StatusInv) (hrun : s.seq = .run) :
    s.status = statusStarted := by
  have hbusy := h.busy_iff.2 hrun
  have hdone : s.status.done = false := by
    rw [← Bool.not_eq_true, h.done_iff, hrun]
    decide
  have hcode := h.code_zero (by rw [hrun]; decide)
  calc s.status = ⟨s.status.busy, s.status.done, s.status.code⟩ := rfl
    _ = statusStarted := by rw [hbusy, hdone, hcode]; rfl

/-- A POLL turn before the completion reads BUSY, the word 1, and the statement stays (R93). -/
theorem step_poll_of_started {s : State} {rest : List HostOp} {k : Nat} (hrun : s.seq = .run) (hdelay : s.delay = k + 1)
    (hstatus : s.status = statusStarted) (hhost : s.host = .poll :: rest) :
    step s = .next { s.answer 1 with delay := k } := by
  have hturn : turnState s = { s with delay := k } := by simp [turnState, hrun, hdelay]
  rw [step_eq, if_neg (by simp [hdelay]), hturn, hostTurn]
  simp [hhost, hstatus, takeOp, pollStatus, statusStarted, Status.toWord, State.answer]

/-- A POLL turn after the completion reads the final STATUS, and the host goes on (R93). -/
theorem step_poll_of_done {s : State} {rest : List HostOp} (hseq : s.seq = .done) (hdone : s.status.done = true)
    (hhost : s.host = .poll :: rest) : step s = .next (State.answer { s with host := rest } s.status.toWord) := by
  rw [step_of_not_run (by rw [hseq]; decide) hhost]
  simp [takeOp, pollStatus, hdone]

/-- Polling a running command reads BUSY in every turn before its completion, then the final STATUS once, and the host goes on
(R93, R286). -/
theorem run_poll {k : Nat} {s : State} {rest : List HostOp} (hrun : s.seq = .run) (hdelay : s.delay = k)
    (hstatus : s.status = statusStarted) (hhost : s.host = .poll :: rest)
    (hchars : legal s.latched = true → ∃ cs : List Word, cs.length = s.lenL.toNat ∧ s.Holds cs) :
    ∃ t, core.run (k + 2) s = .next t ∧ t.seq = .done ∧ t.host = rest ∧
      t.answers = s.answers ++ List.replicate k 1 ++ [t.status.toWord] := by
  induction k generalizing s with
  | zero =>
    obtain ⟨u, c, hstep, ⟨-, -, -, -, -, huhost, huans, -⟩, hseq, huc⟩ := step_completes hrun hdelay hchars
    have hdone : u.status.done = true := by rw [huc]; rfl
    refine ⟨State.answer { u with host := rest } u.status.toWord, ?_, hseq, rfl, by simp [huans]⟩
    rw [run_succ_of_step hstep, run_succ_of_step (step_poll_of_done hseq hdone (huhost.trans hhost))]
    rfl
  | succ k ih =>
    rw [run_succ_of_step (step_poll_of_started hrun hdelay hstatus hhost)]
    obtain ⟨t, ht, hseq, hthost, hans⟩ := ih (s := { s.answer 1 with delay := k }) hrun rfl hstatus hhost hchars
    refine ⟨t, ht, hseq, hthost, ?_⟩
    simp [hans, List.replicate_succ]

/-- Settles O55: by `run_poll`, the invariant saying how STATUS stands while the command runs. -/
theorem pollReturns : Obligations.PollReturns := by
  unfold Obligations.PollReturns
  intro s rest hinv hrun hhost hchars
  exact run_poll hrun rfl (hinv.status.status_of_run hrun) hhost hchars

end Sys2Proof.Machine
end

section
/-! PROOFS. The check digit: the accumulator's range, the datapath's result and the corner cases (40_checksum.md R110, R112 to
R114, R118, R119). -/

namespace Sys2Proof.Machine

/-! ## The accumulator datapath -/

/-- Settles O24: by `checkOf_accRun_toNat`, the accumulator holding the weighted sum modulo 10. -/
theorem accumulatorGivesChecksum : Obligations.AccumulatorGivesChecksum := by
  unfold Obligations.AccumulatorGivesChecksum
  exact checkOf_accRun_toNat

theorem weight_le (k : Nat) : weight k ≤ 3 := by
  unfold weight
  split <;> decide

/-- A weighted digit is at most 3 · 9 (R119). -/
theorem weight_mul_digit_le (k : Nat) (d : Digit) : weight k * d.val ≤ 27 :=
  Nat.mul_le_mul (weight_le k) (Nat.le_of_lt_succ d.isLt)

/-- Settles O25: the addend is at most 27, and the sum is reduced modulo 10. -/
theorem adderStepInRange : Obligations.AdderStepInRange := by
  unfold Obligations.AdderStepInRange
  intro acc k d hacc
  have hadd := weight_mul_digit_le k d
  exact ⟨hadd, Nat.add_le_add hacc hadd, accStep_toNat acc k d, accStep_le acc k d⟩

/-! ## Corner cases -/

/-- Zeros behind the last-digit-first list, which lead the digits, add nothing to the weighted sum. -/
theorem weightedSum_append_replicate_zero (k n : Nat) (ds : List Digit) :
    weightedSum k (ds ++ List.replicate n 0) = weightedSum k ds := by
  induction ds generalizing k with
  | nil =>
    induction n generalizing k with
    | zero => rfl
    | succ n ih =>
      rw [List.replicate_succ]
      simpa [weightedSum] using ih (k + 1)
  | cons d ds ih => simp only [List.cons_append, weightedSum, ih]

/-- Leading zeros do not change the check digit (R118). -/
theorem checksum_replicate_zero_append (n : Nat) (ds : List Digit) :
    checksum (List.replicate n 0 ++ ds) = checksum ds := by
  simp only [checksum, List.reverse_append, List.reverse_replicate, weightedSum_append_replicate_zero]

theorem checksum_eq_zero {ds : List Digit} (h : weightedSum 0 ds.reverse % 10 = 0) : checksum ds = 0 := by
  apply Fin.ext
  rw [checksum_val, h]
  rfl

theorem checksum_eq_nine {ds : List Digit} (h : weightedSum 0 ds.reverse % 10 = 1) : checksum ds = 9 := by
  apply Fin.ext
  rw [checksum_val, h]
  rfl

/-- One digit has backward index 0, so weight 3. -/
theorem checksum_singleton_val (d : Digit) : (checksum [d]).val = (10 - 3 * d.val % 10) % 10 := checksum_val [d]

/-- Settles O26: the zero lists are leading zeros before the empty list, and the other cases read `checksum_val`. -/
theorem checksumCornerCases : Obligations.ChecksumCornerCases := by
  unfold Obligations.ChecksumCornerCases
  have hnil : checksum [] = 0 := checksum_eq_zero rfl
  have hzeros (n : Nat) : checksum (List.replicate n 0) = 0 := by
    have h := checksum_replicate_zero_append n []
    rwa [List.append_nil, hnil] at h
  exact ⟨hnil, hzeros, fun ds => checksum_eq_zero, fun ds => checksum_eq_nine, checksum_singleton_val,
    checksum_replicate_zero_append⟩

end Sys2Proof.Machine
end

section
/-! PROOFS. The characters of digits: what the character check and the digit staging make of them (00_scope.md R7). -/

namespace Sys2Proof.Machine

@[simp] theorem isDigit_digitChar (d : Digit) : isDigit (digitChar d) = true := by
  revert d
  decide

@[simp] theorem dv_digitChar (d : Digit) : dv (digitChar d) = d := by
  revert d
  decide

theorem all_isDigit_map_digitChar (ds : List Digit) : (ds.map digitChar).all isDigit = true := by
  simp

theorem map_dv_map_digitChar (ds : List Digit) : (ds.map digitChar).map dv = ds := by
  simp [Function.comp_def]

end Sys2Proof.Machine
end

section
/-! PROOFS. The EAN commands on the digits of a payload, with or without their check digit (43_ean.md R170, R171, R173, R174). -/

namespace Sys2Proof.Machine

/-! ## From the characters to the staged digits -/

/-- The working registers an EAN encoder generates from: the payload and its check digit staged, the checksum unit run over the
payload (R113, R115). -/
def State.stageWithCheck (s : State) (ds : List Digit) : State := (s.stage (ds ++ [checksum ds])).runChecksum ds

theorem State.digit_stageWithCheck (s : State) (ds : List Digit) : (s.stageWithCheck ds).digit = withCheck ds := rfl

theorem State.chk_stageWithCheck (s : State) (ds : List Digit) : (s.stageWithCheck ds).chk.toNat = (checksum ds).val :=
  checkOf_accRun_toNat ds

/-- On the payload alone an EAN encoder appends the check digit and generates (R115). -/
theorem runEan_payload (s : State) (ds : List Digit) (gen : State → State) :
    s.runEan ds.length (ds.map digitChar) gen = gen (s.stageWithCheck ds) := by
  have hchars : ¬ (ds.map digitChar).all isDigit = false := by rw [all_isDigit_map_digitChar]; decide
  rw [State.runEan, if_neg (by simp), if_neg hchars, if_neg (by simp)]
  simp only [map_dv_map_digitChar, List.take_length, State.checkDigit_runChecksum]
  rfl

/-- On the payload and its check digit an EAN encoder finds the check digit right and generates (R120). -/
theorem runEan_payload_check (s : State) (ds : List Digit) (gen : State → State) :
    s.runEan ds.length ((ds ++ [checksum ds]).map digitChar) gen = gen (s.stageWithCheck ds) := by
  have hchars : ¬ ((ds ++ [checksum ds]).map digitChar).all isDigit = false := by rw [all_isDigit_map_digitChar]; decide
  have hverify : (s.stageWithCheck ds).digit ds.length = checksum ds := by
    rw [State.digit_stageWithCheck, withCheck]
    simp
  rw [State.runEan, if_neg (by simp), if_neg hchars, if_pos (by simp)]
  simp only [map_dv_map_digitChar, List.take_left, State.checkDigit_runChecksum]
  exact if_neg (not_not_intro hverify)

/-- Either form of the characters, `m` payload digits or those and their check digit, leads to one generation. -/
theorem runEan_of_digits (s : State) {m : Nat} {ds : List Digit} {cs : List Word} (gen : State → State) (hds : ds.length = m)
    (hcs : cs = ds.map digitChar ∨ cs = (ds ++ [checksum ds]).map digitChar) :
    s.runEan m cs gen = gen (s.stageWithCheck ds) := by
  subst hds
  obtain rfl | rfl := hcs
  · exact runEan_payload s ds gen
  · exact runEan_payload_check s ds gen

/-! ## The layouts -/

/-- The Append calls of EncEAN13 make the layout (R170, R171). -/
theorem ean13Patterns_flatten (d : Nat → Digit) : (ean13Patterns (parityRow (d 0)) d).flatten = ean13Bits d := by
  simp [ean13Patterns, span, List.range', ean13Bits, eanGuard, eanCentre]

/-- The Append calls of EncEAN8 make the layout (R173, R174). -/
theorem ean8Patterns_flatten (d : Nat → Digit) : (ean8Patterns d).flatten = ean8Bits d := by
  simp [ean8Patterns, span, List.range', ean8Bits, eanGuard, eanCentre]

/-! ## The generation phases -/

/-- EAN13's generation shows the layout of the staged digits, 95 bits, and leaves CHK and PAR as validation wrote them
(R171; log entry 11). -/
theorem State.genEan13_result (s : State) :
    s.genEan13.Shows (.ok (ean13Bits s.digit)) ∧ s.genEan13.outLen = 95 ∧ s.genEan13.chk = s.chk ∧
      s.genEan13.par = parityRow (s.digit 0) := by
  refine ⟨?_, ?_, ?_, ?_⟩
  · rw [← ean13Patterns_flatten]
    exact (State.Ends.ok _).shows
  · rw [State.genEan13, State.generate_eq]
    exact congrArg (BitVec.ofNat 32) (ean13Patterns_length _ _)
  · simp [State.genEan13, State.generate_eq]
  · simp [State.genEan13, State.generate_eq]

/-- EAN8's generation shows the layout of the staged digits, 67 bits, and leaves CHK as validation wrote it
(R174; log entry 11). -/
theorem State.genEan8_result (s : State) :
    s.genEan8.Shows (.ok (ean8Bits s.digit)) ∧ s.genEan8.outLen = 67 ∧ s.genEan8.chk = s.chk := by
  refine ⟨?_, ?_, ?_⟩
  · rw [← ean8Patterns_flatten]
    exact (State.Ends.ok _).shows
  · rw [State.genEan8, State.generate_eq]
    exact congrArg (BitVec.ofNat 32) (ean8Patterns_length _)
  · simp [State.genEan8, State.generate_eq]

/-! ## The commands -/

/-- A command on the characters it holds answers the state its body gives. -/
theorem exec_of_holds {i : Instr} {s : State} {cs : List Word} (hlen : cs.length = i.len.toNat) (h : s.Holds cs) :
    exec i s = .next (commandBody i s cs) :=
  exec_of_readChars (h.readChars_eq hlen)

/-- Settles O32: either form stages the payload and its check digit, and the generation lays those 13 digits out. -/
theorem ean13Completes : Obligations.Ean13Completes := by
  unfold Obligations.Ean13Completes
  intro s ds cs len hds hcs hlen hholds
  have hexec := exec_of_holds (i := .ean13 len) hlen hholds
  rw [commandBody, runEan_of_digits s _ hds hcs] at hexec
  obtain ⟨hshows, houtLen, hchk, hpar⟩ := (s.stageWithCheck ds).genEan13_result
  exact ⟨_, hexec, hshows, houtLen, by rw [hchk, State.chk_stageWithCheck], hpar⟩

/-- Settles O33: either form stages the payload and its check digit, and the generation lays those 8 digits out. -/
theorem ean8Completes : Obligations.Ean8Completes := by
  unfold Obligations.Ean8Completes
  intro s ds cs len hds hcs hlen hholds
  have hexec := exec_of_holds (i := .ean8 len) hlen hholds
  rw [commandBody, runEan_of_digits s _ hds hcs] at hexec
  obtain ⟨hshows, houtLen, hchk⟩ := (s.stageWithCheck ds).genEan8_result
  exact ⟨_, hexec, hshows, houtLen, by rw [hchk, State.chk_stageWithCheck]⟩

end Sys2Proof.Machine
end

section
/-! PROOFS. The EAN code tables and the parity rows (41_parity.md R131 to R135, R139, R140). -/

namespace Sys2Proof.Machine

/-! ## The code tables -/

theorem codeR_eq_map_not_codeL (d : Digit) : codeR d = (codeL d).map (! ·) := by
  revert d
  decide

theorem codeG_eq_reverse_codeR (d : Digit) : codeG d = (codeR d).reverse := by
  revert d
  decide

theorem codeL_count_true (d : Digit) : (codeL d).count true = 3 ∨ (codeL d).count true = 5 := by
  revert d
  decide

/-- G is the complement of L in reverse order, so it has a 1 for each 0 of L's 7 bits. -/
theorem codeG_count_true_add_codeL_count_true (d : Digit) : (codeG d).count true + (codeL d).count true = 7 := by
  have hcompl : (codeG d).count true = (codeL d).count false := by
    rw [codeG_eq_reverse_codeR, codeR_eq_map_not_codeL, List.count_reverse]
    exact List.count_map_of_injective (codeL d) (! ·) Bool.not_injective false
  rw [hcompl, List.count_false_add_count_true, codeL_length]

theorem codeG_count_true (d : Digit) : (codeG d).count true = 2 ∨ (codeG d).count true = 4 := by
  have hsum := codeG_count_true_add_codeL_count_true d
  obtain hL | hL := codeL_count_true d <;> omega

/-- Settles O27: R and G are made from L, and the 1 bits of L and G are 7 together. -/
theorem codeTableRelations : Obligations.CodeTableRelations := by
  unfold Obligations.CodeTableRelations
  intro d
  exact ⟨codeR_eq_map_not_codeL d, codeG_eq_reverse_codeR d, codeL_count_true d, codeG_count_true d, codeL_length d,
    codeG_length d, codeR_length d⟩

/-! ## The parity rows -/

theorem parityRow_count_even {d : Digit} (hd : d ≠ 0) : (rowList (parityRow d)).count .even = 3 := by
  revert d
  decide

theorem parityRow_injective : Function.Injective parityRow := by
  decide

/-- Settles O28: the ten rows, one by one and in pairs. -/
theorem parityRowsShape : Obligations.ParityRowsShape := by
  unfold Obligations.ParityRowsShape
  exact ⟨rfl, fun _ hd => parityRow_count_even hd, fun _ _ h => parityRow_injective h⟩

end Sys2Proof.Machine
end

section
/-! PROOFS. The width rows (42_width.md R150, R152) and the 2-of-5 units made of them (45_two_of_five.md R211, R216). -/

namespace Sys2Proof.Machine

theorem widthRow_count_wide (d : Digit) : (rowList (widthRow d)).count .wide = 2 := by
  revert d
  decide

/-- An element is Wide or Narrow (R151), so the two counts share out the list. -/
theorem count_wide_add_count_narrow (ws : List WidthChoice) : ws.count .wide + ws.count .narrow = ws.length := by
  induction ws with
  | nil => rfl
  | cons w ws ih => cases w <;> simp <;> omega

theorem widthRow_count_narrow (d : Digit) : (rowList (widthRow d)).count .narrow = 3 := by
  have hwide := widthRow_count_wide d
  have hsum : _ = 5 := count_wide_add_count_narrow (rowList (widthRow d))
  omega

theorem widthRow_injective : Function.Injective widthRow := by
  decide

/-- The ten choices of two Wide elements, each with its digit; every other row has some other number of them. -/
theorem exists_widthRow_eq_of_count_wide (r : Row WidthChoice) (h : (rowList r).count .wide = 2) :
    ∃ d, widthRow d = r :=
  match r, h with
  | ⟨.wide, .wide, .narrow, .narrow, .narrow⟩, _ => ⟨3, rfl⟩
  | ⟨.wide, .narrow, .wide, .narrow, .narrow⟩, _ => ⟨5, rfl⟩
  | ⟨.wide, .narrow, .narrow, .wide, .narrow⟩, _ => ⟨8, rfl⟩
  | ⟨.wide, .narrow, .narrow, .narrow, .wide⟩, _ => ⟨1, rfl⟩
  | ⟨.narrow, .wide, .wide, .narrow, .narrow⟩, _ => ⟨6, rfl⟩
  | ⟨.narrow, .wide, .narrow, .wide, .narrow⟩, _ => ⟨9, rfl⟩
  | ⟨.narrow, .wide, .narrow, .narrow, .wide⟩, _ => ⟨2, rfl⟩
  | ⟨.narrow, .narrow, .wide, .wide, .narrow⟩, _ => ⟨0, rfl⟩
  | ⟨.narrow, .narrow, .wide, .narrow, .wide⟩, _ => ⟨4, rfl⟩
  | ⟨.narrow, .narrow, .narrow, .wide, .wide⟩, _ => ⟨7, rfl⟩

/-- Settles O29: the row of a digit by its counts, and the digit of a row by the row's five elements. -/
theorem widthRowsAreTwoOfFive : Obligations.WidthRowsAreTwoOfFive := by
  unfold Obligations.WidthRowsAreTwoOfFive
  exact ⟨fun d => ⟨widthRow_count_wide d, widthRow_count_narrow d⟩, fun _ _ h => widthRow_injective h,
    exists_widthRow_eq_of_count_wide⟩

/-- Settles O30: the width of each unit, by `s25Digit_length` and `i25Pair_length`. -/
theorem twoOfFiveUnitsTake14Bits : Obligations.TwoOfFiveUnitsTake14Bits := by
  unfold Obligations.TwoOfFiveUnitsTake14Bits
  exact ⟨s25Digit_length, i25Pair_length⟩

end Sys2Proof.Machine
end

section
/-! PROOFS. The two forms of an EAN symbol, the payload alone and the payload with its check digit, agree (43_ean.md R172,
R175). -/

namespace Sys2Proof.Machine

/-! ## The digits of the two forms -/

/-- On the payload alone the encoder appends the check digit (R115). -/
theorem eanDigits_payload (ds : List Digit) : eanDigits ds.length (ds.map digitChar) = .ok (ds ++ [checksum ds]) := by
  have hchars : ¬ (ds.map digitChar).all isDigit = false := by rw [all_isDigit_map_digitChar]; decide
  rw [eanDigits, if_neg (by simp), if_neg hchars, if_neg (by simp), map_dv_map_digitChar, List.take_length]

/-- On the payload and its check digit the encoder finds the check digit right (R120). -/
theorem eanDigits_payload_check (ds : List Digit) :
    eanDigits ds.length ((ds ++ [checksum ds]).map digitChar) = .ok (ds ++ [checksum ds]) := by
  have hchars : ¬ ((ds ++ [checksum ds]).map digitChar).all isDigit = false := by rw [all_isDigit_map_digitChar]; decide
  have hverify : (ds ++ [checksum ds]).getD ds.length 0 = checksum ds := by simp
  rw [eanDigits, if_neg (by simp), if_neg hchars, if_pos (by simp), map_dv_map_digitChar, List.take_left]
  exact if_neg (not_not_intro hverify)

/-- Either form of the characters gives the `m` payload digits and their check digit. -/
theorem eanDigits_of_digits {m : Nat} {ds : List Digit} {cs : List Word} (hds : ds.length = m)
    (hcs : cs = ds.map digitChar ∨ cs = (ds ++ [checksum ds]).map digitChar) :
    eanDigits m cs = .ok (ds ++ [checksum ds]) := by
  subst hds
  obtain rfl | rfl := hcs
  · exact eanDigits_payload ds
  · exact eanDigits_payload_check ds

theorem map_digitChar_append_check (ds : List Digit) :
    ds.map digitChar ++ [digitChar (checksum ds)] = (ds ++ [checksum ds]).map digitChar := by
  rw [List.map_append, List.map_singleton]

/-! ## The symbols -/

/-- EncEAN13 lays out the 12 payload digits and their check digit, given either form (R170, R171). -/
theorem encEan13_of_digits {ds : List Digit} {cs : List Word} (hds : ds.length = 12)
    (hcs : cs = ds.map digitChar ∨ cs = (ds ++ [checksum ds]).map digitChar) :
    encEan13 cs = .ok (ean13Bits (withCheck ds)) := by
  rw [encEan13, eanDigits_of_digits hds hcs]
  exact congrArg Except.ok (ean13Patterns_flatten (withCheck ds))

/-- EncEAN8 lays out the 7 payload digits and their check digit, given either form (R173, R174). -/
theorem encEan8_of_digits {ds : List Digit} {cs : List Word} (hds : ds.length = 7)
    (hcs : cs = ds.map digitChar ∨ cs = (ds ++ [checksum ds]).map digitChar) :
    encEan8 cs = .ok (ean8Bits (withCheck ds)) := by
  rw [encEan8, eanDigits_of_digits hds hcs]
  exact congrArg Except.ok (ean8Patterns_flatten (withCheck ds))

/-- Settles O46: both forms give the layout of the payload and its check digit. -/
theorem ean13CheckDigitIdentity : Obligations.Ean13CheckDigitIdentity := by
  unfold Obligations.Ean13CheckDigitIdentity
  intro ds hds
  exact ⟨_, encEan13_of_digits hds (.inl rfl), encEan13_of_digits hds (.inr (map_digitChar_append_check ds))⟩

/-- Settles O47: both forms give the layout of the payload and its check digit. -/
theorem ean8CheckDigitIdentity : Obligations.Ean8CheckDigitIdentity := by
  unfold Obligations.Ean8CheckDigitIdentity
  intro ds hds
  exact ⟨_, encEan8_of_digits hds (.inl rfl), encEan8_of_digits hds (.inr (map_digitChar_append_check ds))⟩

end Sys2Proof.Machine
end

section
/-! PROOFS. The Code11 table and encoder: the symbol of ENC.CODE11, its length, and the characters it skips
(44_code11.md R190 to R194). -/

namespace Sys2Proof.Machine

/-! ## The table -/

/-- The code points of the 11 table characters: the digits and the hyphen (R190). -/
abbrev InCode11 (cp : Nat) : Prop := (0x30 ≤ cp ∧ cp ≤ 0x39) ∨ cp = 0x2D

/-- The code points of the characters of 6 bits: '0', '9' and the hyphen (R190). -/
abbrev SixBitCode11 (cp : Nat) : Prop := cp = 0x30 ∨ cp = 0x39 ∨ cp = 0x2D

theorem code11Table_eq_none_iff (cp : Nat) : code11Table cp = none ↔ ¬ InCode11 cp := by
  unfold code11Table
  split
  case h_12 =>
    simp only [true_iff, imp_false] at *
    omega
  all_goals simp

/-- A pattern has 7 bits, or 6 (R190). -/
theorem code11Table_length {cp : Nat} {p : Bits} (h : code11Table cp = some p) :
    p.length + (if SixBitCode11 cp then 1 else 0) = 7 := by
  unfold code11Table at h
  split at h <;> cases h <;> decide

/-! ## One character -/

theorem code11Char_of_some {c : Word} {p : Bits} (h : code11Table c.toNat = some p) : code11Char c = [p, c11Sep] := by
  rw [code11Char, c11, h]

theorem code11Char_of_none {c : Word} (h : code11Table c.toNat = none) : code11Char c = [] := by
  rw [code11Char, c11, h]

/-- A character adds its pattern and a separator of one 0 bit, or nothing (R191, R192). -/
theorem code11Char_flatten (c : Word) :
    (code11Char c).flatten = ((code11Table c.toNat).map (· ++ [false])).getD [] := by
  cases h : code11Table c.toNat with
  | none => rw [code11Char_of_none h]; rfl
  | some p => rw [code11Char_of_some h]; rfl

/-- A character adds 8 bits with its separator, or 7, and none outside the table (R190, R192). -/
theorem code11Char_length (c : Word) :
    (code11Char c).flatten.length + (if SixBitCode11 c.toNat then 1 else 0) =
      8 * if InCode11 c.toNat then 1 else 0 := by
  cases h : code11Table c.toNat with
  | none =>
    have hout := (code11Table_eq_none_iff c.toNat).1 h
    rw [code11Char_of_none h, if_neg hout, if_neg (by omega)]
    rfl
  | some p =>
    have hin : InCode11 c.toNat :=
      not_not.1 fun hout => Option.some_ne_none p (h ▸ (code11Table_eq_none_iff c.toNat).2 hout)
    have hp := code11Table_length h
    rw [code11Char_of_some h, if_pos hin]
    simp only [c11Sep, List.flatten_cons, List.flatten_nil, List.length_append, List.length_nil, pattern_length]
    omega

/-! ## The symbol -/

/-- The Append calls of EncCode11 make the layout (R192). -/
theorem code11Patterns_flatten (cs : List Word) : (code11Patterns cs).flatten = code11Bits cs := by
  have hchars : (cs.flatMap code11Char).flatten =
      cs.flatMap fun c => ((code11Table c.toNat).map (· ++ [false])).getD [] := by
    simp only [← code11Char_flatten, ← List.flatMap_id, List.flatMap_assoc]
  rw [code11Patterns, List.flatten_append, List.flatten_append, hchars, code11Bits]
  rfl

/-- Each character takes its share of the bits (R193). -/
theorem code11Chars_length (cs : List Word) :
    (cs.flatMap code11Char).flatten.length + cs.countP (fun c => decide (SixBitCode11 c.toNat)) =
      8 * cs.countP (fun c => decide (InCode11 c.toNat)) := by
  induction cs with
  | nil => rfl
  | cons c cs ih =>
    have hc := code11Char_length c
    simp only [List.flatMap_cons, List.flatten_append, List.length_append, List.countP_cons, decide_eq_true_eq]
    omega

/-- The length of a symbol: start, first separator and stop add 15 bits (R191, R193). -/
theorem code11Patterns_length (cs : List Word) :
    (code11Patterns cs).flatten.length + cs.countP (fun c => decide (SixBitCode11 c.toNat)) =
      15 + 8 * cs.countP (fun c => decide (InCode11 c.toNat)) := by
  have hchars := code11Chars_length cs
  simp only [code11Patterns, c11Start, c11Sep, c11Stop, List.flatten_append, List.flatten_cons, List.flatten_nil,
    List.length_append, List.length_nil, pattern_length]
  omega

/-- A character outside the table makes no Append call, wherever it stands (R194). -/
theorem code11Patterns_skip (a b : List Word) {c : Word} (h : code11Table c.toNat = none) :
    code11Patterns (a ++ c :: b) = code11Patterns (a ++ b) := by
  rw [code11Patterns, code11Patterns, List.flatMap_append, List.flatMap_cons, code11Char_of_none h, List.nil_append,
    ← List.flatMap_append]

/-! ## The statements -/

/-- Settles O31: the command generates the Append calls of the characters it holds, and these make the layout. -/
theorem code11Completes : Obligations.Code11Completes := by
  unfold Obligations.Code11Completes
  intro s len cs hlen hholds
  rw [← code11Patterns_flatten]
  exact ⟨_, exec_of_holds (i := .code11 len) hlen hholds, (State.Ends.ok (code11Patterns cs)).shows⟩

/-- Settles O49: the exact length, each character's share summed over the string, and the bound on it. -/
theorem code11Length : Obligations.Code11Length := by
  unfold Obligations.Code11Length
  intro cs bits hbits
  obtain rfl : (code11Patterns cs).flatten = bits := Except.ok.inj hbits
  exact ⟨code11Patterns_length cs, code11Patterns_length_le cs⟩

/-- Settles O50: the Append calls with and without such a character are the same. -/
theorem code11SkipsUnknown : Obligations.Code11SkipsUnknown := by
  unfold Obligations.Code11SkipsUnknown
  intro a b c hc
  have hskip := code11Patterns_skip a b ((code11Table_eq_none_iff c.toNat).2 hc)
  exact ⟨_, rfl, by rw [encCode11, hskip]⟩

end Sys2Proof.Machine
end

section
/-! PROOFS. The 2-of-5 encoders on digits: the symbols of ENC.S2OF5 and ENC.I2OF5, their lengths, and the padding of an odd
number of digits (45_two_of_five.md R212, R213, R217 to R220). -/

namespace Sys2Proof.Machine

/-! ## The layouts -/

/-- The Append calls of EncS2of5 make the layout (R212). -/
theorem s25Patterns_flatten (ds : List Digit) :
    (s25Patterns ds).flatten = pattern 8 0b11011010 ++ ds.flatMap s25Digit ++ pattern 7 0b1101011 := by
  simp only [s25Patterns, s25Start, s25Stop, List.flatten_append, List.flatten_singleton, List.flatMap_def]

/-- The pairs of a digit list, by index: pair `p` is made of digits 2p and 2p + 1 (R217). -/
theorem i25Pairs_eq_map : ∀ ds : List Digit,
    i25Pairs ds = (List.range (ds.length / 2)).map fun p => i25Pair (ds.getD (2 * p) 0) (ds.getD (2 * p + 1) 0)
  | [] => rfl
  | [_] => by simp [i25Pairs]
  | a :: b :: rest => by
    have hlen : (a :: b :: rest).length / 2 = rest.length / 2 + 1 := by
      simp only [List.length_cons]
      omega
    rw [i25Pairs, i25Pairs_eq_map rest, hlen, List.range_succ_eq_map, List.map_cons, List.map_map]
    rfl

/-- The Append calls of EncI2of5 make the layout (R217). -/
theorem i25Patterns_flatten (ds : List Digit) : (i25Patterns ds).flatten = i25Bits ds := by
  simp only [i25Patterns, i25Start, i25Stop, List.flatten_append, List.flatten_singleton, i25Pairs_eq_map, i25Bits,
    List.flatMap_def]

/-! ## The padding -/

/-- The digits EncI2of5 encodes: an odd number of them takes the check digit behind it (R116, R217). -/
def i25Padded (ds : List Digit) : List Digit := if ds.length % 2 = 1 then ds ++ [checksum ds] else ds

theorem i25Padded_of_odd {ds : List Digit} (h : ds.length % 2 = 1) : i25Padded ds = ds ++ [checksum ds] := if_pos h

theorem i25Padded_of_even {ds : List Digit} (h : ds.length % 2 = 0) : i25Padded ds = ds := if_neg (by omega)

theorem i25Padded_length (ds : List Digit) : (i25Padded ds).length = 2 * ((ds.length + 1) / 2) := by
  obtain h | h := Nat.mod_two_eq_zero_or_one ds.length
  · rw [i25Padded_of_even h]
    omega
  · rw [i25Padded_of_odd h, List.length_append, List.length_singleton]
    omega

/-- Padded digits are even in number and take no further padding (R218). -/
theorem i25Padded_i25Padded (ds : List Digit) : i25Padded (i25Padded ds) = i25Padded ds :=
  i25Padded_of_even (by rw [i25Padded_length, Nat.mul_mod_right])

/-! ## Results of ENCODE -/

/-- EncS2of5 on any number of digits gives the Append calls of these digits (R212). -/
theorem encS2of5_of_digits (ds : List Digit) : encS2of5 (ds.map digitChar) = .ok (s25Patterns ds).flatten := by
  have hchars : ¬ (ds.map digitChar).all isDigit = false := by rw [all_isDigit_map_digitChar]; decide
  rw [encS2of5, if_neg hchars, map_dv_map_digitChar]

/-- EncI2of5 on digits gives the Append calls of the padded digits, unless there is none and I2OF5_EMPTY says WrongSize
(R217, R220). -/
theorem encI2of5_of_digits {p : EmptyPolicy} {ds : List Digit} (h : 1 ≤ ds.length ∨ p = .accept) :
    encI2of5 p (ds.map digitChar) = .ok (i25Patterns (i25Padded ds)).flatten := by
  have hchars : ¬ (ds.map digitChar).all isDigit = false := by rw [all_isDigit_map_digitChar]; decide
  have hempty : ¬ ((ds.map digitChar).length = 0 ∧ p = .wrongSize) := by
    rintro ⟨hlen, rfl⟩
    obtain hds | hp := h
    · rw [List.length_map] at hlen
      omega
    · cases hp
  rw [encI2of5, if_neg hchars, if_neg hempty, map_dv_map_digitChar, List.length_map, i25Padded]

/-- The empty input under `Accept` is start and stop (R220). -/
theorem encI2of5_accept_nil : encI2of5 .accept [] = .ok (pattern 8 0b10101101) :=
  encI2of5_of_digits (ds := []) (.inr rfl)

theorem encI2of5_wrongSize_nil : encI2of5 .wrongSize [] = .error .wrongSize := rfl

/-! ## The statements -/

/-- Settles O34: the command shows what ENCODE gives for its characters, the layout of the padded digits; on none, the result
of each policy. -/
theorem i2of5Completes : Obligations.I2of5Completes := by
  unfold Obligations.I2of5Completes
  refine ⟨fun s ds len hlen hpos hholds => ?_, fun s => ?_⟩
  · obtain ⟨t, hexec, hshows⟩ := commandRefinesEncode (.i2of5 len) s _ ((List.length_map _).trans hlen) hholds
    have henc : encodeSymbol Config.i2of5Empty .interleaved2of5 (ds.map digitChar) = .ok (i25Bits (i25Padded ds)) := by
      rw [encodeSymbol, encI2of5_of_digits (.inl hpos), i25Patterns_flatten]
    exact ⟨t, hexec, henc ▸ hshows⟩
  · obtain ⟨t, hexec, hshows⟩ := commandRefinesEncode (.i2of5 0) s [] rfl (fun i hi => absurd hi (Nat.not_lt_zero i))
    refine ⟨t, hexec, ?_⟩
    rw [Instr.format, encodeSymbol] at hshows
    cases hp : Config.i2of5Empty with
    | accept => rwa [hp, encI2of5_accept_nil] at hshows
    | wrongSize => rwa [hp, encI2of5_wrongSize_nil] at hshows

/-- Settles O35: the command shows what ENCODE gives for its characters, the layout of their digits. -/
theorem s2of5Completes : Obligations.S2of5Completes := by
  unfold Obligations.S2of5Completes
  intro s ds len hlen hholds
  obtain ⟨t, hexec, hshows⟩ := commandRefinesEncode (.s2of5 len) s _ ((List.length_map _).trans hlen) hholds
  rw [Instr.format, encodeSymbol, encS2of5_of_digits, s25Patterns_flatten] at hshows
  exact ⟨t, hexec, hshows⟩

/-- Settles O48: the digits with their check digit are the padded digits, which padding leaves as they are. -/
theorem i2of5PaddingIdentity : Obligations.I2of5PaddingIdentity := by
  unfold Obligations.I2of5PaddingIdentity
  intro p ds hodd
  have hpos : 1 ≤ ds.length := by omega
  have hpadded : 1 ≤ (i25Padded ds).length := by
    rw [i25Padded_length]
    omega
  refine ⟨_, encI2of5_of_digits (.inl hpos), ?_⟩
  rw [map_digitChar_append_check, ← i25Padded_of_odd hodd, encI2of5_of_digits (.inl hpadded), i25Padded_i25Padded]

/-- Settles O51: the lengths of the Append calls, those of the padded digits for Interleaved. -/
theorem twoOfFiveLengths : Obligations.TwoOfFiveLengths := by
  unfold Obligations.TwoOfFiveLengths
  refine ⟨fun ds => ⟨_, encS2of5_of_digits ds, s25Patterns_length ds⟩,
    fun p ds h => ⟨_, encI2of5_of_digits h, ?_⟩, encI2of5_accept_nil⟩
  rw [i25Patterns_length, i25Padded_length, Nat.mul_div_cancel_left _ Nat.two_pos]

end Sys2Proof.Machine
end

section
/-! PROOFS. What a command's result depends on (46_dispatch.md R237). -/

namespace Sys2Proof.Machine

/-- Two states that show the same result read alike: STATUS, OUT_LEN and every output bit below it (R27, R59). -/
theorem State.Shows.outcome_eq {t u : State} {res : Except EncodingError Bits} (ht : t.Shows res) (hu : u.Shows res) :
    u.status = t.status ∧ u.outLen = t.outLen ∧ ∀ j, j < t.outLen.toNat → u.outBit j = t.outBit j := by
  cases res with
  | error k =>
    obtain ⟨htstatus, -, htlen⟩ := ht
    obtain ⟨hustatus, -, hulen⟩ := hu
    refine ⟨hustatus.trans htstatus.symm, hulen.trans htlen.symm, fun j hj => ?_⟩
    rw [htlen] at hj
    exact absurd hj (Nat.not_lt_zero j)
  | ok bits =>
    obtain ⟨htstatus, -, htlen, htbits⟩ := ht
    obtain ⟨hustatus, -, hulen, hubits⟩ := hu
    refine ⟨hustatus.trans htstatus.symm, hulen.trans htlen.symm, fun j hj => ?_⟩
    have hheld : j < bits.length := by
      rw [htlen, BitVec.toNat_ofNat] at hj
      exact hj.trans_le (Nat.mod_le _ _)
    simp only [State.outBit, htbits, hubits, List.getElem?_eq_getElem hheld]

/-- A command that answers a state held its characters and shows ENCODE of them (R230, R234). -/
theorem exec_shows {i : Instr} {s t : State} (h : exec i s = .next t) :
    ∃ cs : List Word, cs.length = i.len.toNat ∧ s.Holds cs ∧ t.Shows (encodeSymbol Config.i2of5Empty i.format cs) := by
  obtain ⟨cs, hread, rfl⟩ := exec_next h
  obtain ⟨hlen, hchars⟩ := (readChars_ok_iff s.mem 0 i.len.toNat cs).1 hread
  obtain ⟨w, -, hends⟩ := commandBody_ends i s cs
  exact ⟨cs, hlen, fun j hj => by rw [← hchars j hj, Nat.zero_add], hends.shows⟩

/-- What a state holds, one that agrees on those entries of CHAR_IN holds. -/
theorem State.Holds.of_charIn_eq {s s' : State} {cs : List Word} (h : s.Holds cs)
    (heq : ∀ k, k < cs.length → s'.mem.charIn k = s.mem.charIn k) : s'.Holds cs :=
  fun j hj => (heq j hj).trans (h j hj)

/-- Settles O44: both states hold the same characters, so both commands show ENCODE of them. -/
theorem commandsArePure : Obligations.CommandsArePure := by
  unfold Obligations.CommandsArePure
  intro i s s' t hagree hexec
  obtain ⟨cs, hlen, hholds, hshows⟩ := exec_shows hexec
  obtain ⟨t', hexec', hshows'⟩ := commandRefinesEncode i s' cs hlen (hholds.of_charIn_eq (hlen ▸ hagree))
  exact ⟨t', hexec', hshows.outcome_eq hshows'⟩

end Sys2Proof.Machine
end

section
/-! PROOFS. How a running command moves on: which of its steps is the host's and which the command's, and its completion while
the host does not disturb it (46_dispatch.md R234, R238; 70_reset_and_hazards.md R284 to R286, R289). -/

namespace Sys2Proof.Machine

/-! ## Whose step it is -/

theorem step_of_delay_zero {s : State} (hrun : s.seq = .run) (hdelay : s.delay = 0) : step s = runCommand s := by
  rw [step_eq, if_pos ⟨hrun, hdelay⟩]

theorem step_of_delay_succ {s : State} {k : Nat} (hrun : s.seq = .run) (hdelay : s.delay = k + 1) :
    step s = hostTurn { s with delay := k } := by
  simp [step_eq, turnState, hrun, hdelay]

theorem step_eq_hostTurn_of_not_run {s : State} (h : s.seq ≠ .run) : step s = hostTurn s := by
  simp [step_eq, turnState, h]

/-- A legal latched word runs the command it decodes to (R234). -/
theorem runCommand_of_decode {s : State} {i : Instr} (h : decode s.latched = .ok i) : runCommand s = exec i s := by
  simp only [runCommand, h]

/-- Settles O53: the three kinds of step. -/
theorem stepRunsDecodedCommand : Obligations.StepRunsDecodedCommand := by
  unfold Obligations.StepRunsDecodedCommand
  exact ⟨fun s i hrun hdelay hdec => (step_of_delay_zero hrun hdelay).trans (runCommand_of_decode hdec),
    fun s k => step_of_delay_succ, fun s => step_eq_hostTurn_of_not_run⟩

/-! ## A host that does not disturb the command -/

/-- `t` is `s` but for the host's queue, its answers, the draw count and characters at or above LEN_L. -/
structure State.Undisturbed (s t : State) : Prop where
  eq_with : t = { s with mem := t.mem, host := t.host, answers := t.answers, draws := t.draws }
  charIn_eq : ∀ j, j < s.lenL.toNat → t.mem.charIn j = s.mem.charIn j

namespace State.Undisturbed

variable {s t : State}

theorem seq_eq (h : s.Undisturbed t) : t.seq = s.seq := by
  rw [h.eq_with]

theorem delay_eq (h : s.Undisturbed t) : t.delay = s.delay := by
  rw [h.eq_with]

theorem harmlessOp (h : s.Undisturbed t) {op : HostOp} (hop : s.HarmlessOp op) : t.HarmlessOp op := by
  rw [h.eq_with]
  exact hop

/-- The characters of the running command stay written. -/
theorem exists_holds (h : s.Undisturbed t)
    (hchars : legal s.latched = true → ∃ cs : List Word, cs.length = s.lenL.toNat ∧ s.Holds cs) :
    legal t.latched = true → ∃ cs : List Word, cs.length = t.lenL.toNat ∧ t.Holds cs := by
  rw [h.eq_with]
  intro hlegal
  obtain ⟨cs, hlen, hholds⟩ := hchars hlegal
  exact ⟨cs, hlen, hholds.of_charIn_eq (hlen ▸ h.charIn_eq)⟩

end State.Undisturbed

/-- A harmless statement leaves the running command undisturbed and then is gone, or is a POLL that stays (R93, R284 to
R286). -/
theorem takeOp_of_harmless {op : HostOp} {s : State} (hrun : s.seq = .run) (h : s.HarmlessOp op) :
    ∃ t, takeOp op s = .next t ∧ s.Undisturbed t ∧ (t.host = s.host ∨ t.host = op :: s.host) := by
  cases op with
  | read off width =>
    obtain ⟨rfl, hoff⟩ := h
    obtain ⟨v, hread⟩ | hread := takeOp_read_of_mapped s hoff <;>
      exact ⟨_, hread, ⟨rfl, fun _ _ => rfl⟩, .inl rfl⟩
  | write off width v =>
    obtain ⟨rfl, rfl | rfl | rfl | ⟨i, hlen, hi, rfl⟩⟩ := h
    · exact ⟨s, takeOp_write_cmd_of_run hrun v, ⟨rfl, fun _ _ => rfl⟩, .inl rfl⟩
    · exact ⟨s, takeOp_write_status s v, ⟨rfl, fun _ _ => rfl⟩, .inl rfl⟩
    · exact ⟨s, takeOp_write_outLen s v, ⟨rfl, fun _ _ => rfl⟩, .inl rfl⟩
    · refine ⟨{ s with mem := s.mem.setCharIn i v }, ?_, ⟨rfl, fun j hj => ?_⟩, .inl rfl⟩
      · rw [takeOp_write_charIn hi, writeCharIn, if_neg fun hrace => Nat.not_lt.2 hlen hrace.2]
      · exact (Memory.charIn_setCharIn s.mem i j v).trans (if_neg (by omega))
  | poll =>
    refine ⟨pollStatus s, rfl, ?_⟩
    unfold pollStatus
    split
    · exact ⟨⟨rfl, fun _ _ => rfl⟩, .inl rfl⟩
    · exact ⟨⟨rfl, fun _ _ => rfl⟩, .inr rfl⟩
  | readOut =>
    refine ⟨expandReadOut s, rfl, ?_⟩
    unfold expandReadOut
    split
    · rename_i hcode
      have hnone : outReads s.outLen.toNat = [] := by
        rw [h.resolve_left (not_not_intro hcode)]
        rfl
      rw [hnone]
      exact ⟨⟨rfl, fun _ _ => rfl⟩, .inl rfl⟩
    · exact ⟨⟨rfl, fun _ _ => rfl⟩, .inl rfl⟩
  | reset => exact h.elim

/-- A host turn before the completion leaves the running command undisturbed, one turn nearer, and the host statements that can
still come before the completion are ones that could before. -/
theorem step_of_harmless {s : State} {k : Nat} (hrun : s.seq = .run) (hdelay : s.delay = k + 1)
    (hops : ∀ op ∈ s.host.take (k + 1), s.HarmlessOp op) :
    ∃ t, step s = .next t ∧ State.Undisturbed { s with delay := k } t ∧
      ∀ op ∈ t.host.take k, op ∈ s.host.take (k + 1) := by
  rw [step_of_delay_succ hrun hdelay]
  obtain ⟨hnil, hturn⟩ | ⟨op, rest, hhost, hturn⟩ := hostTurn_cases { s with delay := k }
  · change s.host = [] at hnil
    exact ⟨_, hturn, ⟨rfl, fun _ _ => rfl⟩, by simp [hnil]⟩
  · change s.host = op :: rest at hhost
    rw [hhost] at hops
    obtain ⟨t, ht, hund, hstays⟩ :=
      takeOp_of_harmless (op := op) (s := { s with delay := k, host := rest }) hrun (hops op (by simp))
    refine ⟨t, hturn.trans ht, ⟨hund.eq_with, hund.charIn_eq⟩, ?_⟩
    obtain hgone | hkept := hstays
    · rw [hhost, hgone]
      exact fun o ho => List.mem_cons_of_mem op ho
    · rw [hhost, hkept]
      exact fun o ho => List.take_subset_take_left _ (Nat.le_succ k) ho

/-- After the remaining host turns, all harmless, and one step a running command has completed (R234, R289). -/
theorem run_completes {k : Nat} {s : State} (hrun : s.seq = .run) (hdelay : s.delay = k)
    (hops : ∀ op ∈ s.host.take k, s.HarmlessOp op)
    (hchars : legal s.latched = true → ∃ cs : List Word, cs.length = s.lenL.toNat ∧ s.Holds cs) :
    ∃ t c, core.run (k + 1) s = .next t ∧ t.seq = .done ∧ t.status = statusCompleted c := by
  induction k generalizing s with
  | zero =>
    obtain ⟨t, c, hstep, -, hseq, hstatus⟩ := step_completes hrun hdelay hchars
    exact ⟨t, c, run_succ_of_step hstep 0, hseq, hstatus⟩
  | succ k ih =>
    obtain ⟨u, hstep, hund, hleft⟩ := step_of_harmless hrun hdelay hops
    rw [run_succ_of_step hstep]
    exact ih (hund.seq_eq.trans hrun) hund.delay_eq (fun op hop => hund.harmlessOp (hops op (hleft op hop)))
      (hund.exists_holds hchars)

/-- Settles O54: a completed command's STATUS has BUSY 0 and DONE 1. -/
theorem everyCommandCompletes : Obligations.EveryCommandCompletes := by
  unfold Obligations.EveryCommandCompletes
  intro s hrun hops hchars
  obtain ⟨t, c, hrun', hseq, hstatus⟩ := run_completes hrun rfl hops hchars
  exact ⟨t, hrun', hseq, by rw [hstatus]; rfl, by rw [hstatus]; rfl⟩

end Sys2Proof.Machine
end

section
/-! PROOFS. Exactly when ENCODE reports which error (60_exceptions.md R252 to R255). -/

namespace Sys2Proof.Machine

/-! ## The checks of each encoder -/

/-- The character check as the rule words it (R7). -/
theorem all_isDigit_iff (cs : List Word) : cs.all isDigit = true ↔ ∀ c ∈ cs, 0x30 ≤ c.toNat ∧ c.toNat ≤ 0x39 := by
  simp [isDigit]

theorem all_isDigit_eq_false_iff (cs : List Word) :
    cs.all isDigit = false ↔ ∃ c ∈ cs, ¬ (0x30 ≤ c.toNat ∧ c.toNat ≤ 0x39) := by
  simp only [← Bool.not_eq_true, all_isDigit_iff, not_forall, exists_prop]

/-- Each error of an EAN encoder is that of its first failing check: length, characters, supplied check digit (R120, R232). -/
theorem eanDigits_eq_error_iff (m : Nat) (cs : List Word) (k : EncodingError) :
    eanDigits m cs = .error k ↔
      (k = .wrongSize ∧ cs.length ≠ m ∧ cs.length ≠ m + 1) ∨
      (k = .wrongChar ∧ cs.all isDigit = false ∧ (cs.length = m ∨ cs.length = m + 1)) ∨
      (k = .wrongChecksum ∧ cs.all isDigit = true ∧ cs.length = m + 1 ∧
        dv (cs.getD m 0) ≠ checksum ((cs.take m).map dv)) := by
  have hlast : (cs.map dv).getD m 0 = dv (cs.getD m 0) := List.getD_map cs 0 dv
  simp only [eanDigits, hlast, ← List.map_take]
  generalize dv (cs.getD m 0) = last, checksum ((cs.take m).map dv) = check
  by_cases hsize : cs.length ≠ m ∧ cs.length ≠ m + 1
  · simp [hsize, eq_comm (a := k)]
  have hok : cs.length = m ∨ cs.length = m + 1 := by omega
  rw [if_neg hsize]
  cases cs.all isDigit with
  | false => simp [hsize, hok, eq_comm (a := k)]
  | true =>
    obtain hlen | hlen := hok
    · simp [hlen]
    · by_cases hverify : last = check
      · simp [hlen, hverify]
      · simp [hlen, hverify, eq_comm (a := k)]

theorem encEan13_eq_error_iff (cs : List Word) (k : EncodingError) :
    encEan13 cs = .error k ↔ eanDigits 12 cs = .error k := by
  unfold encEan13
  cases eanDigits 12 cs <;> simp

theorem encEan8_eq_error_iff (cs : List Word) (k : EncodingError) :
    encEan8 cs = .error k ↔ eanDigits 7 cs = .error k := by
  unfold encEan8
  cases eanDigits 7 cs <;> simp

/-- Code11 has no check that fails (R192). -/
theorem encCode11_ne_error (cs : List Word) (k : EncodingError) : encCode11 cs ≠ .error k := nofun

theorem encS2of5_eq_error_iff (cs : List Word) (k : EncodingError) :
    encS2of5 cs = .error k ↔ k = .wrongChar ∧ cs.all isDigit = false := by
  unfold encS2of5
  cases cs.all isDigit <;> simp [eq_comm (a := k)]

/-- The empty input passes the character check, so the two errors of Interleaved exclude each other (R217, R220). -/
theorem encI2of5_eq_error_iff (p : EmptyPolicy) (cs : List Word) (k : EncodingError) :
    encI2of5 p cs = .error k ↔
      (k = .wrongChar ∧ cs.all isDigit = false) ∨ (k = .wrongSize ∧ cs.length = 0 ∧ p = .wrongSize) := by
  simp only [encI2of5, List.length_eq_zero_iff]
  cases hchars : cs.all isDigit with
  | false =>
    have hne : cs ≠ [] := by
      rintro rfl
      cases hchars
    simp [hne, eq_comm (a := k)]
  | true =>
    by_cases hempty : cs = [] ∧ p = .wrongSize
    · simp [hempty, eq_comm (a := k)]
    · simp [hempty]

/-- ENCODE's errors over all formats, each with the inputs that raise it (R252, R253, R255). -/
theorem encodeSymbol_eq_error_iff (p : EmptyPolicy) (f : Format) (cs : List Word) (k : EncodingError) :
    encodeSymbol p f cs = .error k ↔
      (k = .wrongSize ∧ ((f = .ean13 ∧ cs.length ≠ 12 ∧ cs.length ≠ 13) ∨ (f = .ean8 ∧ cs.length ≠ 7 ∧ cs.length ≠ 8) ∨
        (f = .interleaved2of5 ∧ cs.length = 0 ∧ p = .wrongSize))) ∨
      (k = .wrongChar ∧ f ≠ .code11 ∧ cs.all isDigit = false ∧ (f = .ean13 → cs.length = 12 ∨ cs.length = 13) ∧
        (f = .ean8 → cs.length = 7 ∨ cs.length = 8)) ∨
      (k = .wrongChecksum ∧ cs.all isDigit = true ∧
        ((f = .ean13 ∧ cs.length = 13 ∧ dv (cs.getD 12 0) ≠ checksum ((cs.take 12).map dv)) ∨
          (f = .ean8 ∧ cs.length = 8 ∧ dv (cs.getD 7 0) ≠ checksum ((cs.take 7).map dv)))) := by
  cases f with
  | code11 => simp [encodeSymbol, encCode11_ne_error]
  | ean13 => simp [encodeSymbol, encEan13_eq_error_iff, eanDigits_eq_error_iff]
  | ean8 => simp [encodeSymbol, encEan8_eq_error_iff, eanDigits_eq_error_iff]
  | interleaved2of5 => simp [encodeSymbol, encI2of5_eq_error_iff, or_comm]
  | standard2of5 => simp [encodeSymbol, encS2of5_eq_error_iff]

/-! ## The statements -/

/-- Settles O39: by `encodeSymbol_eq_error_iff`, which names the inputs of the length checks. -/
theorem wrongSizeExactlyWhen : Obligations.WrongSizeExactlyWhen := by
  unfold Obligations.WrongSizeExactlyWhen
  refine ⟨rfl, fun p f cs => ?_⟩
  simp only [encodeSymbol_eq_error_iff, true_and, reduceCtorEq, false_and, or_false]

/-- Settles O40: by `encodeSymbol_eq_error_iff`, the character check failing at some character that is no digit. -/
theorem wrongCharExactlyWhen : Obligations.WrongCharExactlyWhen := by
  unfold Obligations.WrongCharExactlyWhen
  refine ⟨rfl, fun p f cs => ?_⟩
  rw [← all_isDigit_eq_false_iff]
  simp only [encodeSymbol_eq_error_iff, true_and, reduceCtorEq, false_and, or_false, false_or]

/-- Settles O41: by `encodeSymbol_eq_error_iff`, the character check passing when every character is a digit. -/
theorem wrongChecksumExactlyWhen : Obligations.WrongChecksumExactlyWhen := by
  unfold Obligations.WrongChecksumExactlyWhen
  refine ⟨rfl, fun p f cs => ?_⟩
  rw [← all_isDigit_iff]
  simp only [encodeSymbol_eq_error_iff, true_and, reduceCtorEq, false_and, false_or]

end Sys2Proof.Machine
end

section
/-! PROOFS. Reset, and what the host's accesses meet while a command runs and after it (70_reset_and_hazards.md R266, R280 to
R287). -/

namespace Sys2Proof.Machine

/-! ## Reset -/

/-- The state after reset is what the block's reset makes of it, one draw earlier. -/
theorem reset_eq_resetBlock : State.reset = State.resetBlock { State.reset with draws := 0 } := rfl

/-- Settles O11: a reset leaves the invariant from any state. -/
theorem resetMeetsBlockInvariant : Obligations.ResetMeetsBlockInvariant := by
  unfold Obligations.ResetMeetsBlockInvariant
  rw [reset_eq_resetBlock]
  exact State.resetBlock_inv _

/-- No entry of an empty CHAR_IN is written (R54). -/
theorem Memory.charIn_nil (i : Nat) : Memory.charIn [] i = none := rfl

/-- Settles O12: the reset empties CHAR_IN and BIT_OUT, so every output bit is one of the new draw. -/
theorem resetLeaves : Obligations.ResetLeaves := by
  unfold Obligations.ResetLeaves
  exact fun s => ⟨s.resetBlock, rfl, rfl, rfl, rfl, rfl, Memory.charIn_nil,
    fun j => State.outBit_of_ge s.resetBlock j (Nat.zero_le j), rfl, rfl⟩

/-! ## Hazards of a running command -/

/-- A running command races with a write to a character it reads (R285). -/
theorem takeOp_write_charIn_of_race {s : State} {i : Nat} (hi : i < Config.maxChars) (hrun : s.seq = .run)
    (hrace : i < s.lenL.toNat) (v : Word) : takeOp (.write (0x40000 + 4 * i) 4 v) s = .fault .inputRace := by
  rw [takeOp_write_charIn hi, writeCharIn, if_pos ⟨hrun, hrace⟩]

/-- At or above LEN_L a character write takes effect, a command running or not (R54, R285). -/
theorem takeOp_write_charIn_of_lenL_le {s : State} {i : Nat} (hi : i < Config.maxChars) (hlen : s.lenL.toNat ≤ i)
    (v : Word) : takeOp (.write (0x40000 + 4 * i) 4 v) s = .next { s with mem := s.mem.setCharIn i v } := by
  rw [takeOp_write_charIn hi, writeCharIn, if_neg fun hrace => Nat.not_lt.2 hlen hrace.2]

/-- Settles O20: the race below LEN_L, and at or above it the store, which changes its own entry alone. -/
theorem charInWriteWhileBusy : Obligations.CharInWriteWhileBusy := by
  unfold Obligations.CharInWriteWhileBusy
  refine fun s i v hi hrun => ⟨fun hrace => takeOp_write_charIn_of_race hi hrun hrace v, fun hlen => ?_⟩
  refine ⟨_, takeOp_write_charIn_of_lenL_le hi hlen v, ?_, fun j hj => ?_, rfl⟩
  · exact (Memory.charIn_setCharIn s.mem i i v).trans (if_pos rfl)
  · exact (Memory.charIn_setCharIn s.mem i j v).trans (if_neg hj)

/-- Settles O21: the invariant fixes STATUS and OUT_LEN while a command runs, and a BIT_OUT read is free then. -/
theorem readsWhileBusy : Obligations.ReadsWhileBusy := by
  unfold Obligations.ReadsWhileBusy
  intro s hinv hrun
  have hstatus : takeOp (.read 4 4) s = .next (s.answer 1) := by
    rw [takeOp_read_status, hinv.status.status_of_run hrun]
    rfl
  have houtLen : takeOp (.read 8 4) s = .next (s.answer 0) := by
    rw [takeOp_read_outLen, hinv.output.outLen_zero (.inl (by simp [hrun]))]
  exact ⟨hstatus, houtLen, fun w hw => (takeOp_read_bitOut hw s).trans (if_pos hrun)⟩

/-- Settles O22: the turn takes the statement, and the port drops the write. -/
theorem cmdWriteWhileBusyLost : Obligations.CmdWriteWhileBusyLost := by
  unfold Obligations.CmdWriteWhileBusyLost
  intro s v rest k hrun hdelay hhost
  calc step s = hostTurn { s with delay := k } := step_of_delay_succ hrun hdelay
    _ = takeOp (.write 0 4 v) { s with delay := k, host := rest } := by simp only [hostTurn, hhost]
    _ = .next { s with delay := k, host := rest } :=
      takeOp_write_cmd_of_run (s := { s with delay := k, host := rest }) hrun v

/-! ## The result of a command -/

theorem SameBlock.status_eq {s t : State} (h : SameBlock s t) : t.status = s.status := by
  obtain ⟨-, hstatus, -⟩ := h
  exact hstatus

theorem SameBlock.output_eq {s t : State} (h : SameBlock s t) : t.bitOut = s.bitOut ∧ t.outDraw = s.outDraw := by
  obtain ⟨-, -, -, -, -, -, -, -, -, -, -, -, -, hbitOut, houtDraw⟩ := h
  exact ⟨hbitOut, houtDraw⟩

/-- With no command running, a step that takes neither a CMD write nor a reset changes CHAR_IN alone, if anything of the block
(R287). -/
theorem BlockStep.exists_mem {s t : State} (h : BlockStep s t) (hfree : s.seq ≠ .run)
    (hcmd : ∀ v rest, s.host ≠ .write 0 4 v :: rest) (hreset : ∀ rest, s.host ≠ .reset :: rest) :
    ∃ m, SameBlock { s with mem := m } t := by
  cases h with
  | completes hrun => exact absurd hrun hfree
  | stays hsame => exact ⟨s.mem, hsame⟩
  | starts v rest _ hhead => exact absurd hhead (hcmd v rest)
  | stores m hsame => exact ⟨m, hsame⟩
  | resets rest hhead => exact absurd hhead (hreset rest)

/-- Settles O23: such a step changes CHAR_IN alone, which is no part of the result. -/
theorem resultLifetime : Obligations.ResultLifetime := by
  unfold Obligations.ResultLifetime
  intro s t hdone hstep hcmd hreset
  have hfree : s.seq ≠ .run := by simp [hdone]
  obtain ⟨m, hsame⟩ := (blockStep_of_step hstep).exists_mem hfree hcmd hreset
  obtain ⟨hbits, hdraw⟩ := hsame.output_eq
  exact ⟨hsame.seq_eq.trans hdone, hsame.status_eq, hsame.outLen_eq, hbits,
    fun j => State.outBit_congr (congrArg (·[j]?) hbits) hdraw⟩

end Sys2Proof.Machine
end
